-- ==== Sys2Proof/Word.lean ====
section
/-! DEFINITION. The word types of the block: the widths `spec/00_scope.md` R5 and R9 give. -/

namespace Sys2Proof

/-- Priorities, nest weights, the prescaler and the alarm-id field `SUB` (R5, R81). -/
abbrev Byte := BitVec 8

/-- The raw value of a RequestLine write (R110). -/
abbrev Half := BitVec 16

/-- A command word, a ClockControl register, a bank or extension event set (R23, R25, R80). -/
abbrev Word := BitVec 32

/-- The data word and the response word of the command port (R80). -/
abbrev DoubleWord := BitVec 64

end Sys2Proof
end

