-- ==== Sys2Proof/Config.lean ====
section
/-! DEFINITION. The configuration of the block (`spec/00_scope.md` R5, `spec/45_wiring_and_time.md` R210, R211, R214)
and the register layouts that `spec/93_implementation_defined.md` G1 and G2 want kept in the configuration layer.
The configuration is data: routers, sinks and routes are lists, so that a machine state that carries it can be compared
and written out. -/

namespace Sys2Proof

/-- An interrupt class: an independent arbitration domain (R13). -/
inductive IrqClass where
  | normal
  | fast
  deriving DecidableEq, Repr

/-- Where the Arbiter priority of a sink comes from: with the delivered value, or fixed by the wiring (R210). -/
inductive PrioSource where
  | fromValue
  | fixed (p : Byte)
  deriving DecidableEq, Repr

/-- The downstream end of a RequestLine or of a bank line (R210): an Arbiter line with its class, weight and priority
source, or an external pin. -/
inductive Sink where
  | arb (id : Nat) (cls : IrqClass) (nest : Byte) (prio : PrioSource)
  | ext (n : Nat)
  deriving DecidableEq, Repr

/-- What a timer callback drives (R214). -/
inductive Route where
  | none
  | srl (r : Nat)
  | srb (b : Nat) (bits : Word)
  | srbx (x : Nat) (bits : Word)
  deriving DecidableEq, Repr

/-- The configuration of one RequestBank: `EVMASK(b)`, `NOUT(b)`, `router(b)` (the line index of each event, by event
id) and `sinkSRB(b, j)` (by line index). -/
structure BankConfig where
  evMask : Word
  nOut   : Nat
  router : List Nat
  sinks  : List Sink
  deriving DecidableEq, Repr

/-- The configuration of one RequestBankExtension: `XEVMASK(x)`, `parent(x)`, `parentEventMask(x)`. -/
structure ExtConfig where
  xevMask         : Word
  parent          : Nat
  parentEventMask : Word
  deriving DecidableEq, Repr

/-- The configuration of one DynamicTimer: `NALARM(t)`, `route(t, -1)` and `route(t, i)` (by alarm id). -/
structure TimerConfig where
  nAlarm        : Nat
  overflowRoute : Route
  alarmRoutes   : List Route
  deriving DecidableEq, Repr

/-- The configuration `cfg` of R5. The numbers of units stand beside the lists of their records, so that a missing
record can be said (R211, R231). -/
structure Config where
  nCLC        : Nat
  nSRL        : Nat
  nSRB        : Nat
  nSRBX       : Nat
  nVCT        : Nat
  nLINES      : Nat
  nestEnabled : Bool
  ackConsumes : Bool
  sinkSRL     : List Sink
  banks       : List BankConfig
  exts        : List ExtConfig
  timers      : List TimerConfig
  deriving DecidableEq, Repr

/-- Nanoseconds in a second: the constant `10^9` of the counter formula (R175). -/
def nsPerSecond : Nat := 1000000000

/-- The bound of every index space: `IDX` has 16 bits (R5, R81). -/
def indexBound : Nat := 65536

/-- Timer quantities are naturals below this bound (R5). -/
def timerBound : Nat := 2 ^ 64

/-! ### The ClockControl layout of R100 (G1; PRESUMED by the spec, log 9) -/

/-- `DISR`, the disable-request bit. -/
def clcDisrBit : Nat := 0
/-- `DISS`, the disable-status bit. -/
def clcDissBit : Nat := 1
/-- The lowest bit of `PRESC`, an 8-bit field. -/
def clcPrescLow : Nat := 8
/-- The reset pattern of R101: disabled, prescaler 1. -/
def clcResetPattern : Word := 0x00000103#32

/-! ### The RequestLine raw-value layout of R110 (G2; PRESUMED by the spec, log 10) -/

/-- The lowest bit of `PRIO`, an 8-bit field. -/
def srlPrioLow : Nat := 0
/-- `EN`, the enable bit. -/
def srlEnBit : Nat := 12
/-- `PEND`, the request flag. -/
def srlPendBit : Nat := 13
/-- `CLRR`, the clear request. -/
def srlClrrBit : Nat := 14
/-- `SETR`, the set request. -/
def srlSetrBit : Nat := 15

/-- The configuration of `State.reset` (DESIGN CHOICE, log 2): the wirings of `spec/95_test_vectors.md` V2.3 (two
RequestLines), P4 (a bank with two lines and an extension behind its event 3) and P3 (a timer with one alarm, routed to
RequestLine 0 and bank 0), with a second, unrouted timer. No statement of this model rests on it. -/
def sampleConfig : Config where
  nCLC := 1
  nSRL := 2
  nSRB := 1
  nSRBX := 1
  nVCT := 2
  nLINES := 8
  nestEnabled := true
  ackConsumes := true
  sinkSRL := [.arb 5 .normal 0#8 .fromValue, .arb 6 .fast 0#8 .fromValue]
  banks := [{ evMask := 0xF#32, nOut := 2, router := [0, 1, 0, 1],
              sinks := [.arb 3 .normal 0#8 (.fixed 2#8), .arb 4 .normal 0#8 (.fixed 5#8)] }]
  exts := [{ xevMask := 0x7#32, parent := 0, parentEventMask := 0x8#32 }]
  timers := [{ nAlarm := 1, overflowRoute := .srb 0 0x1#32, alarmRoutes := [.srl 0] },
             { nAlarm := 1, overflowRoute := .none, alarmRoutes := [.none] }]

end Sys2Proof
end

