-- ==== Sys2Proof/Syntax.lean ====
section
/-! DEFINITION. The 34 operations of `spec/opcode_table.json` (`spec/30_encoding.md` R84), with the operands of R81 and
R82. An index (`IDX`, `SUB` of `VCT.SETALARM`) and a timer quantity (`DATA[63:0]`) is a natural, as the spec treats it;
`WellFormed.lean` bounds it by its field. -/

namespace Sys2Proof

/-- One command of the block (R84), one constructor per row of the opcode table. -/
inductive Instr where
  | clcInit (c : Nat)
  | clcSet (c : Nat) (value : Word)
  | clcGet (c : Nat)
  | clcIsen (c : Nat)
  | clcGetpre (c : Nat)
  | srlSet (r : Nat) (w : Half)
  | srlGet (r : Nat)
  | srlAssert (r : Nat)
  | srlClear (r : Nat)
  | srbSetmask (b : Nat) (bits : Word)
  | srbSetraw (b : Nat) (bits : Word)
  | srbClearraw (b : Nat) (bits : Word)
  | srbGetmask (b : Nat)
  | srbGetraw (b : Nat)
  | srbGetmis (b : Nat)
  | srbxSetmask (x : Nat) (bits : Word)
  | srbxSetraw (x : Nat) (bits : Word)
  | srbxClearraw (x : Nat) (bits : Word)
  | srbxGetmask (x : Nat)
  | srbxGetraw (x : Nat)
  | srbxGetmis (x : Nat)
  | arbSetlevel (id : Nat) (cls : IrqClass) (priority nestWeight : Byte) (level : Bool)
  | arbTake (cls : IrqClass)
  | arbAck (cls : IrqClass)
  | arbSetmask (cls : IrqClass) (enable : Bool) (n : Byte)
  | vctStart (t : Nat)
  | vctStop (t : Nat)
  | vctReset (t : Nat)
  | vctSetfreq (t : Nat) (hz : Nat)
  | vctSetovf (t : Nat) (modulus : Nat)
  | vctSetalarm (t : Nat) (alarm : Nat) (ticks : Nat)
  | vctTick (t : Nat)
  | vctGetcnt (t : Nat)
  | vctNext (t : Nat)
  deriving DecidableEq, Repr

end Sys2Proof
end

