-- ==== Sys2Proof/WellFormed.lean ====
section
/-! DEFINITION. The syntactic bounds of an instruction: its operands fit the fields of `spec/30_encoding.md` R81 and R82
that carry them. An index that fits its field but lies outside its configured space is well-formed: it faults by value
(R86). -/

namespace Sys2Proof

/-- The instance index, line id or timer index fits `IDX` (R81). -/
def idxFits (n : Nat) : Bool := decide (n < indexBound)

/-- The alarm id fits `SUB` (R81). -/
def alarmFits (n : Nat) : Bool := decide (n < 256)

/-- The timer operand fits `DATA[63:0]` (R82). -/
def dataFits (n : Nat) : Bool := decide (n < timerBound)

/-- Every operand of the instruction fits the field that carries it. -/
def Instr.wf : Instr → Bool
  | .clcInit c => idxFits c
  | .clcSet c _ => idxFits c
  | .clcGet c => idxFits c
  | .clcIsen c => idxFits c
  | .clcGetpre c => idxFits c
  | .srlSet r _ => idxFits r
  | .srlGet r => idxFits r
  | .srlAssert r => idxFits r
  | .srlClear r => idxFits r
  | .srbSetmask b _ => idxFits b
  | .srbSetraw b _ => idxFits b
  | .srbClearraw b _ => idxFits b
  | .srbGetmask b => idxFits b
  | .srbGetraw b => idxFits b
  | .srbGetmis b => idxFits b
  | .srbxSetmask x _ => idxFits x
  | .srbxSetraw x _ => idxFits x
  | .srbxClearraw x _ => idxFits x
  | .srbxGetmask x => idxFits x
  | .srbxGetraw x => idxFits x
  | .srbxGetmis x => idxFits x
  | .arbSetlevel id _ _ _ _ => idxFits id
  | .arbTake _ => true
  | .arbAck _ => true
  | .arbSetmask _ _ _ => true
  | .vctStart t => idxFits t
  | .vctStop t => idxFits t
  | .vctReset t => idxFits t
  | .vctSetfreq t hz => idxFits t && dataFits hz
  | .vctSetovf t m => idxFits t && dataFits m
  | .vctSetalarm t a n => idxFits t && alarmFits a && dataFits n
  | .vctTick t => idxFits t
  | .vctGetcnt t => idxFits t
  | .vctNext t => idxFits t

end Sys2Proof
end

