-- ==== Sys2Proof/Decode.lean ====
section
/-! DEFINITION. The decoder and the encoder of the command port, and the opcode table as data
(`spec/30_encoding.md` R80 to R87). -/

namespace Sys2Proof

/-! ### Fields of a command (R81, R82) -/

/-- `K`, the unit kind: `CMD[31:28]`. -/
def cmdKind (cmd : Word) : Nat := (cmd.extractLsb' 28 4).toNat
/-- `OP`, the operation within the kind: `CMD[27:24]`. -/
def cmdOp (cmd : Word) : Nat := (cmd.extractLsb' 24 4).toNat
/-- `SUB`, the sub-selector: `CMD[23:16]`. -/
def cmdSub (cmd : Word) : Nat := (cmd.extractLsb' 16 8).toNat
/-- `IDX`, the instance index or line id: `CMD[15:0]`. -/
def cmdIdx (cmd : Word) : Nat := (cmd.extractLsb' 0 16).toNat

/-- `value` and `bits`: `DATA[31:0]`. -/
def dataWord (data : DoubleWord) : Word := data.extractLsb' 0 32
/-- `w` of `SRL.SET`: `DATA[15:0]`. -/
def dataHalf (data : DoubleWord) : Half := data.extractLsb' 0 16
/-- `priority` of `ARB.SETLEVEL` and `N` of `ARB.SETMASK`: `DATA[7:0]`. -/
def dataByte0 (data : DoubleWord) : Byte := data.extractLsb' 0 8
/-- `nestWeight` of `ARB.SETLEVEL`: `DATA[15:8]`. -/
def dataByte1 (data : DoubleWord) : Byte := data.extractLsb' 8 8
/-- `level` of `ARB.SETLEVEL`: `DATA[16]`. -/
def dataLevel (data : DoubleWord) : Bool := data.getLsbD 16
/-- `enable` of `ARB.SETMASK`: `DATA[8]`. -/
def dataEnable (data : DoubleWord) : Bool := data.getLsbD 8

/-! ### The decoder -/

/-- Why a command word matches no row (R85). Every reason is the one fault `ILLEGAL_CMD`. -/
inductive Illegal where
  /-- `K` in 6 .. 15. -/
  | reservedKind
  /-- An `OP` with no row for its `K`. -/
  | reservedOp
  /-- A `SUB` the operation does not admit. -/
  | reservedSub
  /-- A nonzero `IDX` on `ARB.TAKE`, `ARB.ACK` or `ARB.SETMASK`. -/
  | reservedIdx
  deriving DecidableEq, Repr

/-- An operation whose `SUB` must be 0 (R81). -/
def subZero (sub : Nat) (i : Instr) : Except Illegal Instr :=
  if sub = 0 then .ok i else .error .reservedSub

/-- An `ARB` operation: `SUB` is the class, 0 or 1, and 2 to 255 are reserved (R81). -/
def subClass (sub : Nat) (i : IrqClass → Instr) : Except Illegal Instr :=
  if sub = 0 then .ok (i .normal) else if sub = 1 then .ok (i .fast) else .error .reservedSub

/-- An `ARB` operation whose `IDX` must be 0 (R81). -/
def subClassIdxZero (sub idx : Nat) (i : IrqClass → Instr) : Except Illegal Instr :=
  if idx = 0 then subClass sub i else .error .reservedIdx

/-- The `CLC` rows of R84. -/
def decodeClc (op sub idx : Nat) (data : DoubleWord) : Except Illegal Instr :=
  match op with
  | 0 => subZero sub (.clcInit idx)
  | 1 => subZero sub (.clcSet idx (dataWord data))
  | 2 => subZero sub (.clcGet idx)
  | 3 => subZero sub (.clcIsen idx)
  | 4 => subZero sub (.clcGetpre idx)
  | _ => .error .reservedOp

/-- The `SRL` rows of R84. -/
def decodeSrl (op sub idx : Nat) (data : DoubleWord) : Except Illegal Instr :=
  match op with
  | 1 => subZero sub (.srlSet idx (dataHalf data))
  | 2 => subZero sub (.srlGet idx)
  | 3 => subZero sub (.srlAssert idx)
  | 4 => subZero sub (.srlClear idx)
  | _ => .error .reservedOp

/-- The `SRB` rows of R84. -/
def decodeSrb (op sub idx : Nat) (data : DoubleWord) : Except Illegal Instr :=
  match op with
  | 1 => subZero sub (.srbSetmask idx (dataWord data))
  | 2 => subZero sub (.srbSetraw idx (dataWord data))
  | 3 => subZero sub (.srbClearraw idx (dataWord data))
  | 4 => subZero sub (.srbGetmask idx)
  | 5 => subZero sub (.srbGetraw idx)
  | 6 => subZero sub (.srbGetmis idx)
  | _ => .error .reservedOp

/-- The `SRBX` rows of R84. -/
def decodeSrbx (op sub idx : Nat) (data : DoubleWord) : Except Illegal Instr :=
  match op with
  | 1 => subZero sub (.srbxSetmask idx (dataWord data))
  | 2 => subZero sub (.srbxSetraw idx (dataWord data))
  | 3 => subZero sub (.srbxClearraw idx (dataWord data))
  | 4 => subZero sub (.srbxGetmask idx)
  | 5 => subZero sub (.srbxGetraw idx)
  | 6 => subZero sub (.srbxGetmis idx)
  | _ => .error .reservedOp

/-- The `ARB` rows of R84. -/
def decodeArb (op sub idx : Nat) (data : DoubleWord) : Except Illegal Instr :=
  match op with
  | 1 => subClass sub fun k => .arbSetlevel idx k (dataByte0 data) (dataByte1 data) (dataLevel data)
  | 2 => subClassIdxZero sub idx fun k => .arbTake k
  | 3 => subClassIdxZero sub idx fun k => .arbAck k
  | 4 => subClassIdxZero sub idx fun k => .arbSetmask k (dataEnable data) (dataByte0 data)
  | _ => .error .reservedOp

/-- The `VCT` rows of R84. -/
def decodeVct (op sub idx : Nat) (data : DoubleWord) : Except Illegal Instr :=
  match op with
  | 1 => subZero sub (.vctStart idx)
  | 2 => subZero sub (.vctStop idx)
  | 3 => subZero sub (.vctReset idx)
  | 4 => subZero sub (.vctSetfreq idx data.toNat)
  | 5 => subZero sub (.vctSetovf idx data.toNat)
  | 6 => .ok (.vctSetalarm idx sub data.toNat)
  | 7 => subZero sub (.vctTick idx)
  | 8 => subZero sub (.vctGetcnt idx)
  | 9 => subZero sub (.vctNext idx)
  | _ => .error .reservedOp

/-- The decoder of R84 and R85: total, every command word is either one row or illegal. -/
def decode (cmd : Word) (data : DoubleWord) : Except Illegal Instr :=
  match cmdKind cmd with
  | 0 => decodeClc (cmdOp cmd) (cmdSub cmd) (cmdIdx cmd) data
  | 1 => decodeSrl (cmdOp cmd) (cmdSub cmd) (cmdIdx cmd) data
  | 2 => decodeSrb (cmdOp cmd) (cmdSub cmd) (cmdIdx cmd) data
  | 3 => decodeSrbx (cmdOp cmd) (cmdSub cmd) (cmdIdx cmd) data
  | 4 => decodeArb (cmdOp cmd) (cmdSub cmd) (cmdIdx cmd) data
  | 5 => decodeVct (cmdOp cmd) (cmdSub cmd) (cmdIdx cmd) data
  | _ => .error .reservedKind

/-! ### The encoder -/

/-- `CMD = K ++ OP ++ SUB ++ IDX` (R81). -/
def cmdWord (k op sub idx : Nat) : Word :=
  (BitVec.ofNat 4 k ++ BitVec.ofNat 4 op) ++ (BitVec.ofNat 8 sub ++ BitVec.ofNat 16 idx)

/-- The class in `SUB` (R81). -/
def classCode : IrqClass → Nat
  | .normal => 0
  | .fast => 1

/-- `DATA` of `ARB.SETLEVEL`; the bits R82 does not list are 0. -/
def setlevelData (priority nestWeight : Byte) (level : Bool) : DoubleWord :=
  (BitVec.ofBool level ++ (nestWeight ++ priority)).setWidth 64

/-- `DATA` of `ARB.SETMASK`; the bits R82 does not list are 0. -/
def setmaskData (enable : Bool) (n : Byte) : DoubleWord :=
  (BitVec.ofBool enable ++ n).setWidth 64

/-- The command `(CMD, DATA)` of an instruction (R81, R82, R84); `DATA` bits that the operation ignores are 0. -/
def encode : Instr → Word × DoubleWord
  | .clcInit c => (cmdWord 0 0 0 c, 0#64)
  | .clcSet c v => (cmdWord 0 1 0 c, v.setWidth 64)
  | .clcGet c => (cmdWord 0 2 0 c, 0#64)
  | .clcIsen c => (cmdWord 0 3 0 c, 0#64)
  | .clcGetpre c => (cmdWord 0 4 0 c, 0#64)
  | .srlSet r w => (cmdWord 1 1 0 r, w.setWidth 64)
  | .srlGet r => (cmdWord 1 2 0 r, 0#64)
  | .srlAssert r => (cmdWord 1 3 0 r, 0#64)
  | .srlClear r => (cmdWord 1 4 0 r, 0#64)
  | .srbSetmask b v => (cmdWord 2 1 0 b, v.setWidth 64)
  | .srbSetraw b v => (cmdWord 2 2 0 b, v.setWidth 64)
  | .srbClearraw b v => (cmdWord 2 3 0 b, v.setWidth 64)
  | .srbGetmask b => (cmdWord 2 4 0 b, 0#64)
  | .srbGetraw b => (cmdWord 2 5 0 b, 0#64)
  | .srbGetmis b => (cmdWord 2 6 0 b, 0#64)
  | .srbxSetmask x v => (cmdWord 3 1 0 x, v.setWidth 64)
  | .srbxSetraw x v => (cmdWord 3 2 0 x, v.setWidth 64)
  | .srbxClearraw x v => (cmdWord 3 3 0 x, v.setWidth 64)
  | .srbxGetmask x => (cmdWord 3 4 0 x, 0#64)
  | .srbxGetraw x => (cmdWord 3 5 0 x, 0#64)
  | .srbxGetmis x => (cmdWord 3 6 0 x, 0#64)
  | .arbSetlevel id k p n l => (cmdWord 4 1 (classCode k) id, setlevelData p n l)
  | .arbTake k => (cmdWord 4 2 (classCode k) 0, 0#64)
  | .arbAck k => (cmdWord 4 3 (classCode k) 0, 0#64)
  | .arbSetmask k e n => (cmdWord 4 4 (classCode k) 0, setmaskData e n)
  | .vctStart t => (cmdWord 5 1 0 t, 0#64)
  | .vctStop t => (cmdWord 5 2 0 t, 0#64)
  | .vctReset t => (cmdWord 5 3 0 t, 0#64)
  | .vctSetfreq t hz => (cmdWord 5 4 0 t, BitVec.ofNat 64 hz)
  | .vctSetovf t m => (cmdWord 5 5 0 t, BitVec.ofNat 64 m)
  | .vctSetalarm t a n => (cmdWord 5 6 a t, BitVec.ofNat 64 n)
  | .vctTick t => (cmdWord 5 7 0 t, 0#64)
  | .vctGetcnt t => (cmdWord 5 8 0 t, 0#64)
  | .vctNext t => (cmdWord 5 9 0 t, 0#64)

/-! ### The opcode table as data (R84) -/

/-- One row of R84: `CMD AND mask = pattern` selects it; `usedData` are the bits of `DATA` that R82 lists for it. -/
structure OpcodeRow where
  mnemonic : String
  pattern  : Word
  mask     : Word
  usedData : DoubleWord
  deriving DecidableEq, Repr

/-- The `CLC` and `SRL` rows of R84. -/
def opcodeRowsLines : List OpcodeRow :=
  [⟨"CLC.INIT", 0x00000000#32, 0xFFFF0000#32, 0#64⟩, ⟨"CLC.SET", 0x01000000#32, 0xFFFF0000#32, 0xFFFFFFFF#64⟩,
   ⟨"CLC.GET", 0x02000000#32, 0xFFFF0000#32, 0#64⟩, ⟨"CLC.ISEN", 0x03000000#32, 0xFFFF0000#32, 0#64⟩,
   ⟨"CLC.GETPRE", 0x04000000#32, 0xFFFF0000#32, 0#64⟩, ⟨"SRL.SET", 0x11000000#32, 0xFFFF0000#32, 0xFFFF#64⟩,
   ⟨"SRL.GET", 0x12000000#32, 0xFFFF0000#32, 0#64⟩, ⟨"SRL.ASSERT", 0x13000000#32, 0xFFFF0000#32, 0#64⟩,
   ⟨"SRL.CLEAR", 0x14000000#32, 0xFFFF0000#32, 0#64⟩]

/-- The `SRB` and `SRBX` rows of R84. -/
def opcodeRowsBanks : List OpcodeRow :=
  [⟨"SRB.SETMASK", 0x21000000#32, 0xFFFF0000#32, 0xFFFFFFFF#64⟩, ⟨"SRB.SETRAW", 0x22000000#32, 0xFFFF0000#32, 0xFFFFFFFF#64⟩,
   ⟨"SRB.CLEARRAW", 0x23000000#32, 0xFFFF0000#32, 0xFFFFFFFF#64⟩, ⟨"SRB.GETMASK", 0x24000000#32, 0xFFFF0000#32, 0#64⟩,
   ⟨"SRB.GETRAW", 0x25000000#32, 0xFFFF0000#32, 0#64⟩, ⟨"SRB.GETMIS", 0x26000000#32, 0xFFFF0000#32, 0#64⟩,
   ⟨"SRBX.SETMASK", 0x31000000#32, 0xFFFF0000#32, 0xFFFFFFFF#64⟩, ⟨"SRBX.SETRAW", 0x32000000#32, 0xFFFF0000#32, 0xFFFFFFFF#64⟩,
   ⟨"SRBX.CLEARRAW", 0x33000000#32, 0xFFFF0000#32, 0xFFFFFFFF#64⟩, ⟨"SRBX.GETMASK", 0x34000000#32, 0xFFFF0000#32, 0#64⟩,
   ⟨"SRBX.GETRAW", 0x35000000#32, 0xFFFF0000#32, 0#64⟩, ⟨"SRBX.GETMIS", 0x36000000#32, 0xFFFF0000#32, 0#64⟩]

/-- The `ARB` and `VCT` rows of R84. -/
def opcodeRowsArbVct : List OpcodeRow :=
  [⟨"ARB.SETLEVEL", 0x41000000#32, 0xFFFE0000#32, 0x1FFFF#64⟩, ⟨"ARB.TAKE", 0x42000000#32, 0xFFFEFFFF#32, 0#64⟩,
   ⟨"ARB.ACK", 0x43000000#32, 0xFFFEFFFF#32, 0#64⟩, ⟨"ARB.SETMASK", 0x44000000#32, 0xFFFEFFFF#32, 0x1FF#64⟩,
   ⟨"VCT.START", 0x51000000#32, 0xFFFF0000#32, 0#64⟩, ⟨"VCT.STOP", 0x52000000#32, 0xFFFF0000#32, 0#64⟩,
   ⟨"VCT.RESET", 0x53000000#32, 0xFFFF0000#32, 0#64⟩, ⟨"VCT.SETFREQ", 0x54000000#32, 0xFFFF0000#32, 0xFFFFFFFFFFFFFFFF#64⟩,
   ⟨"VCT.SETOVF", 0x55000000#32, 0xFFFF0000#32, 0xFFFFFFFFFFFFFFFF#64⟩,
   ⟨"VCT.SETALARM", 0x56000000#32, 0xFF000000#32, 0xFFFFFFFFFFFFFFFF#64⟩, ⟨"VCT.TICK", 0x57000000#32, 0xFFFF0000#32, 0#64⟩,
   ⟨"VCT.GETCNT", 0x58000000#32, 0xFFFF0000#32, 0#64⟩, ⟨"VCT.NEXT", 0x59000000#32, 0xFFFF0000#32, 0#64⟩]

/-- The opcode table of R84, 34 rows. -/
def opcodeRows : List OpcodeRow := opcodeRowsLines ++ (opcodeRowsBanks ++ opcodeRowsArbVct)

/-- The row selects the command word. -/
def OpcodeRow.selects (row : OpcodeRow) (cmd : Word) : Bool := cmd &&& row.mask == row.pattern

/-- The mnemonic of an instruction, as R84 spells it. -/
def Instr.mnemonic : Instr → String
  | .clcInit _ => "CLC.INIT"
  | .clcSet _ _ => "CLC.SET"
  | .clcGet _ => "CLC.GET"
  | .clcIsen _ => "CLC.ISEN"
  | .clcGetpre _ => "CLC.GETPRE"
  | .srlSet _ _ => "SRL.SET"
  | .srlGet _ => "SRL.GET"
  | .srlAssert _ => "SRL.ASSERT"
  | .srlClear _ => "SRL.CLEAR"
  | .srbSetmask _ _ => "SRB.SETMASK"
  | .srbSetraw _ _ => "SRB.SETRAW"
  | .srbClearraw _ _ => "SRB.CLEARRAW"
  | .srbGetmask _ => "SRB.GETMASK"
  | .srbGetraw _ => "SRB.GETRAW"
  | .srbGetmis _ => "SRB.GETMIS"
  | .srbxSetmask _ _ => "SRBX.SETMASK"
  | .srbxSetraw _ _ => "SRBX.SETRAW"
  | .srbxClearraw _ _ => "SRBX.CLEARRAW"
  | .srbxGetmask _ => "SRBX.GETMASK"
  | .srbxGetraw _ => "SRBX.GETRAW"
  | .srbxGetmis _ => "SRBX.GETMIS"
  | .arbSetlevel _ _ _ _ _ => "ARB.SETLEVEL"
  | .arbTake _ => "ARB.TAKE"
  | .arbAck _ => "ARB.ACK"
  | .arbSetmask _ _ _ => "ARB.SETMASK"
  | .vctStart _ => "VCT.START"
  | .vctStop _ => "VCT.STOP"
  | .vctReset _ => "VCT.RESET"
  | .vctSetfreq _ _ => "VCT.SETFREQ"
  | .vctSetovf _ _ => "VCT.SETOVF"
  | .vctSetalarm _ _ _ => "VCT.SETALARM"
  | .vctTick _ => "VCT.TICK"
  | .vctGetcnt _ => "VCT.GETCNT"
  | .vctNext _ => "VCT.NEXT"

/-! ### A command as bytes: the harness convention of R62 (log 13) -/

/-- The number that bytes laid out little-endian stand for. -/
def ofBytesLE : List Byte → Nat
  | [] => 0
  | x :: xs => x.toNat + 256 * ofBytesLE xs

/-- The first `n` bytes of a number, little-endian. -/
def toBytesLE : Nat → Nat → List Byte
  | 0, _ => []
  | n + 1, v => BitVec.ofNat 8 v :: toBytesLE n (v / 256)

/-- One command read from bytes: four bytes of `CMD`, eight of `DATA`, each word little-endian (R62); the rest of the
bytes follow. `none` when a whole command is not there (R63). -/
def commandOfBytes (bs : List Byte) : Option ((Word × DoubleWord) × List Byte) :=
  if bs.length < 12 then none
  else some ((BitVec.ofNat 32 (ofBytesLE (bs.take 4)), BitVec.ofNat 64 (ofBytesLE ((bs.drop 4).take 8))), bs.drop 12)

/-- The twelve bytes of a command (R62). -/
def bytesOfCommand (cmd : Word) (data : DoubleWord) : List Byte :=
  toBytesLE 4 cmd.toNat ++ toBytesLE 8 data.toNat

/-- The command of a table word: bits 31..0 are `CMD`, bits 95..32 are `DATA`; bits from `nbits` up are 0. -/
def tableCommand (nbits w : Nat) : Word × DoubleWord :=
  (BitVec.ofNat 32 (w % 2 ^ nbits), BitVec.ofNat 64 (w % 2 ^ nbits / 2 ^ 32))

/-- The instruction the decoder reads from a table word, laid out as bytes and read back (R62, R84). -/
def decodeTableWord (nbits w : Nat) : Option Instr :=
  match commandOfBytes (bytesOfCommand (tableCommand nbits w).1 (tableCommand nbits w).2) with
  | none => none
  | some (c, _) =>
    match decode c.1 c.2 with
    | .ok i => some i
    | .error _ => none

end Sys2Proof
end

