-- ==== Sys2Proof/Machine/State.lean ====
section
/-! DEFINITION. The state of the block (`spec/10_state.md` R20 to R36) and the reasons a step can stop. Plain data:
one record per unit, in lists indexed by the unit number. The configuration stands in the state so that every statement
is about every configuration; no step changes it (log 1). -/

namespace Sys2Proof.Machine

/-- One ClockControl unit (R23): the raw register value. -/
structure Clc where
  value : Word
  deriving DecidableEq, Repr

/-- One RequestLine (R24). -/
structure Srl where
  pending        : Bool
  enabled        : Bool
  priority       : Byte
  deliveredState : Bool
  deriving DecidableEq, Repr

/-- One RequestBank (R25); `deliveredPerLine` has `NOUT(b)` entries. -/
structure Srb where
  mask             : Word
  rawStatus        : Word
  deliveredPerLine : List Bool
  deriving DecidableEq, Repr

/-- One RequestBankExtension (R26). -/
structure Srbx where
  rawStatus : Word
  mask      : Word
  deriving DecidableEq, Repr

/-- One entry of the Arbiter's line table (R27). -/
structure ArbLine where
  isFastClass : Bool
  priority    : Byte
  nestWeight  : Byte
  asserted    : Bool
  deriving DecidableEq, Repr

/-- The Arbiter's record of one class (R28). -/
structure ArbClass where
  lockedLineId      : Option Nat
  selectedLineId    : Option Nat
  maskBelowPriority : Option Byte
  deriving DecidableEq, Repr

/-- One alarm of a DynamicTimer (R30). -/
structure Alarm where
  threshold : Option Nat
  fired     : Bool
  deriving DecidableEq, Repr

/-- One DynamicTimer (R30); `alarms` has `NALARM(t)` entries. -/
structure Vct where
  frequencyHz     : Option Nat
  counterBase     : Nat
  baseTimestamp   : Nat
  overflowModulus : Option Nat
  alarms          : List Alarm
  running         : Bool
  deadline        : Option Nat
  deriving DecidableEq, Repr

/-- The index spaces of R60, as the `info` of `PRG_ID` names them (R232). -/
inductive IndexSpace where
  | clc
  | srl
  | srb
  | srbx
  | arb
  | vct
  | vctAlarm
  deriving DecidableEq, Repr

/-- A timer callback id `k` (R9, R214): -1 for the overflow, or an alarm id. -/
inductive Callback where
  | overflow
  | alarm (i : Nat)
  deriving DecidableEq, Repr

/-- A record of the configuration, as the `info` of `CFG` names the missing or bad one (R211, R232). A record that stands
beyond the units there are is bad too. -/
inductive ConfigRecord where
  /-- The number of units of this kind, or `NLINES`, is out of bounds (R5). -/
  | count (space : IndexSpace)
  /-- `sinkSRL(r)`. -/
  | sinkSRL (r : Nat)
  /-- The record of bank `b` is missing, or its `NOUT(b)` is out of bounds. -/
  | bank (b : Nat)
  /-- `sinkSRB(b, j)`. -/
  | sinkSRB (b j : Nat)
  /-- `router(b)` at event `e` of `EVMASK(b)`. -/
  | router (b e : Nat)
  /-- The record of extension `x` is missing, or its `parent(x)` or `parentEventMask(x)` is bad. -/
  | ext (x : Nat)
  /-- The record of timer `t` is missing, or its `NALARM(t)` is out of bounds. -/
  | timer (t : Nat)
  /-- `route(t, k)`. -/
  | route (t : Nat) (k : Callback)
  /-- Several sinks name Arbiter line `id`. -/
  | driver (id : Nat)
  deriving DecidableEq, Repr

/-- The fault record (R32, R232): a code with what it records. -/
inductive FaultRecord where
  /-- Code 1, an ill-formed configuration: reported by construction, never held in `FAULT` (R231). -/
  | cfg (bad : ConfigRecord)
  /-- Code 2, an index outside its space. -/
  | prgId (space : IndexSpace) (index : Nat)
  /-- Code 3, an acknowledge of a class that is not Locked. -/
  | prgAck (cls : IrqClass)
  /-- Code 4, a modulus of 0. -/
  | prgMod0 (t : Nat)
  /-- Code 5, a start of a timer with an unwritten field. -/
  | unwritten (t : Nat)
  /-- Code 6, a command word that matches no row. -/
  | illegalCmd (cmd : Word)
  deriving DecidableEq, Repr

/-- The numeric code of R232. -/
def FaultRecord.code : FaultRecord → Nat
  | .cfg _ => 1
  | .prgId _ _ => 2
  | .prgAck _ => 3
  | .prgMod0 _ => 4
  | .unwritten _ => 5
  | .illegalCmd _ => 6

/-- One record of an event list (R11, R12): a delivery to a sink, an edge of a class output, a timer callback. -/
inductive Event where
  | deliver (sink : Sink) (v : Nat)
  | outEdge (cls : IrqClass) (level : Bool)
  | fire (t : Nat) (k : Callback)
  deriving DecidableEq, Repr

/-- One move of the environment (R6, R219): a command of the issuer, a clock step `ADVANCE(d)`, a scheduler step
`DUE(t)`. -/
inductive Input where
  | command (cmd : Word) (data : DoubleWord)
  | advance (d : Nat)
  | due (t : Nat)
  deriving DecidableEq, Repr

/-- The state of the whole machine: the units, the Arbiter, the fault record and `NOW` (R20, R219), and the model's own
fields `cfg`, `resp` (the last response word, R12), `trace` (every event since reset, oldest first, R12) and `inputs`
(the environment's next moves, in order; log 3). -/
structure State where
  cfg    : Config
  clc    : List Clc
  srl    : List Srl
  srb    : List Srb
  srbx   : List Srbx
  lines  : List ArbLine
  normal : ArbClass
  fast   : ArbClass
  vct    : List Vct
  fault  : Option FaultRecord
  now    : Nat
  resp   : Option DoubleWord
  trace  : List Event
  inputs : List Input
  deriving DecidableEq, Repr

/-- The machine stopped. -/
inductive Fault where
  /-- Raised by `step` when the fault record is set (R230, R219): no step is enabled, and only reset leaves this state.
  Safe: it is what the spec says. -/
  | stopped (r : FaultRecord)
  deriving DecidableEq, Repr

/-- The move at the head of `inputs` is no step of the machine. -/
inductive Refusal where
  /-- An instruction without a meaning: no arm of `exec` answers it. Safe. -/
  | notModelled (mnemonic : String)
  /-- Raised by `step` on an ill-formed configuration, from which no machine is built (R231). Safe. -/
  | illFormedConfiguration
  /-- Raised by `step` when the environment offers no move: nothing happens on its own (R261). Safe. -/
  | noInput
  /-- Raised by `step` on a command offered while a scheduling pass is due (R217). Safe. -/
  | commandWhileDue
  /-- Raised by `step` on a clock step that is not enabled (R216). Safe. -/
  | advanceNotEnabled
  /-- Raised by `step` on a scheduler step of a timer that is not due (R217). Safe. -/
  | passNotDue
  deriving DecidableEq, Repr

/-! ### Reading and writing one unit. A unit number outside the list reads as the reset record and writes nothing; no
operation of a well-formed machine uses one (log 14). -/

/-- The reset record of a ClockControl unit (R36). -/
def Clc.reset : Clc := ⟨clcResetPattern⟩
/-- The reset record of a RequestLine (R36). -/
def Srl.reset : Srl := ⟨false, false, 0#8, false⟩
/-- The reset record of a bank with `nOut` lines (R36). -/
def Srb.reset (nOut : Nat) : Srb := ⟨0#32, 0#32, List.replicate nOut false⟩
/-- The reset record of an extension (R36). -/
def Srbx.reset : Srbx := ⟨0#32, 0#32⟩
/-- The reset record of an Arbiter line (R36). -/
def ArbLine.reset : ArbLine := ⟨false, 0#8, 0#8, false⟩
/-- The reset record of an Arbiter class (R36). -/
def ArbClass.reset : ArbClass := ⟨none, none, none⟩
/-- The reset record of an alarm (R36). -/
def Alarm.reset : Alarm := ⟨none, false⟩
/-- The reset record of a timer with `nAlarm` alarms (R36). -/
def Vct.reset (nAlarm : Nat) : Vct := ⟨none, 0, 0, none, List.replicate nAlarm Alarm.reset, false, none⟩

def State.clcAt (s : State) (c : Nat) : Clc := s.clc[c]?.getD Clc.reset
def State.srlAt (s : State) (r : Nat) : Srl := s.srl[r]?.getD Srl.reset
def State.srbAt (s : State) (b : Nat) : Srb := s.srb[b]?.getD (Srb.reset 0)
def State.srbxAt (s : State) (x : Nat) : Srbx := s.srbx[x]?.getD Srbx.reset
def State.lineAt (s : State) (i : Nat) : ArbLine := s.lines[i]?.getD ArbLine.reset
def State.vctAt (s : State) (t : Nat) : Vct := s.vct[t]?.getD (Vct.reset 0)
def State.classAt (s : State) : IrqClass → ArbClass
  | .normal => s.normal
  | .fast => s.fast

def State.setClc (s : State) (c : Nat) (u : Clc) : State := { s with clc := s.clc.set c u }
def State.setSrl (s : State) (r : Nat) (u : Srl) : State := { s with srl := s.srl.set r u }
def State.setSrb (s : State) (b : Nat) (u : Srb) : State := { s with srb := s.srb.set b u }
def State.setSrbx (s : State) (x : Nat) (u : Srbx) : State := { s with srbx := s.srbx.set x u }
def State.setLine (s : State) (i : Nat) (u : ArbLine) : State := { s with lines := s.lines.set i u }
def State.setVct (s : State) (t : Nat) (u : Vct) : State := { s with vct := s.vct.set t u }
def State.setClass (s : State) (k : IrqClass) (u : ArbClass) : State :=
  match k with
  | .normal => { s with normal := u }
  | .fast => { s with fast := u }
def State.setFault (s : State) (r : Option FaultRecord) : State := { s with fault := r }
def State.setNow (s : State) (n : Nat) : State := { s with now := n }
def State.setResp (s : State) (v : Option DoubleWord) : State := { s with resp := v }
def State.setInputs (s : State) (is : List Input) : State := { s with inputs := is }
def State.emit (s : State) (e : Event) : State := { s with trace := s.trace ++ [e] }

/-- The machine of a configuration right after reset (R36, R260): every field at the value of R36, no event (R261). -/
def State.resetOf (cfg : Config) : State where
  cfg := cfg
  clc := List.replicate cfg.nCLC Clc.reset
  srl := List.replicate cfg.nSRL Srl.reset
  srb := cfg.banks.map fun b => Srb.reset b.nOut
  srbx := List.replicate cfg.nSRBX Srbx.reset
  lines := List.replicate cfg.nLINES ArbLine.reset
  normal := ArbClass.reset
  fast := ArbClass.reset
  vct := cfg.timers.map fun t => Vct.reset t.nAlarm
  fault := none
  now := 0
  resp := none
  trace := []
  inputs := []

/-- The machine right after reset, for the sample configuration (log 2). -/
def State.reset : State := State.resetOf sampleConfig

end Sys2Proof.Machine
end

