-- ==== Sys2Proof/Machine/Operands.lean ====
section
/-! DEFINITION. The fields of raw register values (`spec/40_clockcontrol.md` R100, `spec/41_requestline.md` R110), the
response words (`spec/30_encoding.md` R83), the sizes of the index spaces (`spec/20_memory.md` R60) and the lookups in
the configuration. -/

namespace Sys2Proof.Machine

/-! ### Raw register values -/

/-- `DISR` of a ClockControl value. -/
def clcDisr (v : Word) : Bool := v.getLsbD clcDisrBit

/-- `PRESC` of a ClockControl value. -/
def clcPresc (v : Word) : Byte := v.extractLsb' clcPrescLow 8

/-- `PRIO` of a RequestLine raw value. -/
def srlPrio (w : Half) : Byte := w.extractLsb' srlPrioLow 8

/-- `EN` of a RequestLine raw value. -/
def srlEn (w : Half) : Bool := w.getLsbD srlEnBit

/-- `PEND` of a RequestLine raw value. -/
def srlPend (w : Half) : Bool := w.getLsbD srlPendBit

/-- `CLRR` of a RequestLine raw value. -/
def srlClrr (w : Half) : Bool := w.getLsbD srlClrrBit

/-- `SETR` of a RequestLine raw value. -/
def srlSetr (w : Half) : Bool := w.getLsbD srlSetrBit

/-! ### Response words (R83) -/

/-- A flag as a response: 1 or 0. -/
def respBool (b : Bool) : DoubleWord := BitVec.ofNat 64 b.toNat

/-- A 32-bit register as a response: `zext_64`. -/
def respWord (v : Word) : DoubleWord := v.setWidth 64

/-- An 8-bit field as a response: `zext_64`. -/
def respByte (v : Byte) : DoubleWord := v.setWidth 64

/-- A natural as a response: the counter of `VCT.GETCNT`. It is below 2^64 wherever the issuer may ask (R35 (e), log 16). -/
def respNat (n : Nat) : DoubleWord := BitVec.ofNat 64 n

/-- The response of `SRL.GET` (R113): `priority + enabled * 2^12 + pending * 2^13`. -/
def respSrl (u : Srl) : DoubleWord :=
  BitVec.ofNat 64 (u.priority.toNat * 2 ^ srlPrioLow + u.enabled.toNat * 2 ^ srlEnBit + u.pending.toNat * 2 ^ srlPendBit)

/-- The response of `ARB.TAKE` (R83, R154): bit 16 is `valid`, bits 15:0 the line id. -/
def respTake : Option Nat → DoubleWord
  | none => 0#64
  | some i => BitVec.ofNat 64 (2 ^ 16 + i)

/-- The response of `VCT.NEXT` (R189): the offset of the deadline, saturated at `2^64 - 2`; `2^64 - 1` when disarmed. -/
def respNext (deadline : Option Nat) (now : Nat) : DoubleWord :=
  match deadline with
  | none => BitVec.ofNat 64 (2 ^ 64 - 1)
  | some d => BitVec.ofNat 64 (min (d - now) (2 ^ 64 - 2))

/-! ### Lookups in the configuration. A missing record reads as the default named here; a well-formed configuration
(R211) misses none (log 14). -/

/-- `sinkSRL(r)`. -/
def sinkOfSrl (cfg : Config) (r : Nat) : Sink := cfg.sinkSRL[r]?.getD (.ext 0)

/-- The configuration of bank `b`. -/
def bankConfig (cfg : Config) (b : Nat) : BankConfig := cfg.banks[b]?.getD ⟨0#32, 0, [], []⟩

/-- `router(b)(e)`. -/
def bankRoute (bc : BankConfig) (e : Nat) : Option Nat := bc.router[e]?

/-- `sinkSRB(b, j)`. -/
def bankSink (bc : BankConfig) (j : Nat) : Sink := bc.sinks[j]?.getD (.ext 0)

/-- The configuration of extension `x`. -/
def extConfig (cfg : Config) (x : Nat) : ExtConfig := cfg.exts[x]?.getD ⟨0#32, 0, 0#32⟩

/-- The configuration of timer `t`. -/
def timerConfig (cfg : Config) (t : Nat) : TimerConfig := cfg.timers[t]?.getD ⟨0, .none, []⟩

/-- `route(t, k)`. -/
def routeOf (cfg : Config) (t : Nat) (k : Callback) : Route :=
  match k with
  | .overflow => (timerConfig cfg t).overflowRoute
  | .alarm i => (timerConfig cfg t).alarmRoutes[i]?.getD .none

/-- The size of a unit index space (R60). The nested alarm space belongs to a timer: `alarmCount`. -/
def unitCount (cfg : Config) : IndexSpace → Nat
  | .clc => cfg.nCLC
  | .srl => cfg.nSRL
  | .srb => cfg.nSRB
  | .srbx => cfg.nSRBX
  | .arb => cfg.nLINES
  | .vct => cfg.nVCT
  | .vctAlarm => 0

/-- `NALARM(t)`. -/
def alarmCount (cfg : Config) (t : Nat) : Nat := (timerConfig cfg t).nAlarm

end Sys2Proof.Machine
end

