-- ==== Sys2Proof/Machine/Flags.lean ====
section
/-! DEFINITION. The status flags of the block (`spec/10_state.md` R33) and the derived levels: how each is computed.
The block has no arithmetic flags. -/

namespace Sys2Proof.Machine

/-- The disable-status bit follows the disable-request bit (R102); every other bit is as written. -/
def clcWithStatus (v : Word) : Word :=
  if clcDisr v then v ||| BitVec.twoPow 32 clcDissBit else v &&& ~~~(BitVec.twoPow 32 clcDissBit)

/-- The request flag a raw write stores (R112): `SETR` or `CLRR` alone folds in; together neither does. -/
def srlFoldPending (w : Half) : Bool :=
  if srlSetr w && !srlClrr w then true
  else if srlClrr w && !srlSetr w then false
  else srlPend w

/-- The level a RequestLine forwards (R111): `pending AND enabled`. -/
def Srl.level (u : Srl) : Bool := u.pending && u.enabled

/-- The value a RequestLine hands to its sink (R111): `1 + priority`, or the sentinel 0. It does not wrap (R276). -/
def Srl.forwarded (u : Srl) : Nat := if u.level then 1 + u.priority.toNat else 0

/-- The events of a bank that hold their lines asserted: `rawStatus AND mask` (R125, R131). -/
def Srb.active (u : Srb) : Word := u.rawStatus &&& u.mask

/-- The aggregate of line `j` (R125): some event of `EVMASK` is active and routed to `j`. -/
def bankAggregate (bc : BankConfig) (act : Word) (j : Nat) : Bool :=
  (List.range 32).any fun e => bc.evMask.getLsbD e && act.getLsbD e && bankRoute bc e == some j

/-- The masked status of an extension (R141). -/
def Srbx.active (u : Srbx) : Word := u.rawStatus &&& u.mask

/-- The aggregate of an extension, `xagg` (R135). -/
def Srbx.aggregate (u : Srbx) : Bool := u.active != 0#32

/-- `cls(i)`: the class a line belongs to (R27). -/
def ArbLine.cls (l : ArbLine) : IrqClass := if l.isFastClass then .fast else .normal

/-- The state of a class (R29): Locked comes before Pending. -/
inductive ClassState where
  | idle
  | pending (i : Nat)
  | locked (i : Nat)
  deriving DecidableEq, Repr

/-- `state(k)` (R29). -/
def ArbClass.state (u : ArbClass) : ClassState :=
  match u.lockedLineId, u.selectedLineId with
  | some i, _ => .locked i
  | none, some i => .pending i
  | none, none => .idle

/-- The class output (R29): 1 exactly in Pending. -/
def ArbClass.out (u : ArbClass) : Bool :=
  match u.state with
  | .pending _ => true
  | _ => false

/-- `OUT[k]` (R7, R29). -/
def State.out (s : State) (k : IrqClass) : Bool := (s.classAt k).out

/-- The filter of a class excludes a priority (R150): `maskBelowPriority = some N` and the priority is at most `N`. -/
def ArbClass.excludes (u : ArbClass) (priority : Byte) : Bool :=
  match u.maskBelowPriority with
  | none => false
  | some n => decide (priority.toNat ≤ n.toNat)

/-- The alarm fires in a pass at counter value `c` (R179): it is unfired and its threshold is reached. -/
def Alarm.reached (a : Alarm) (c : Nat) : Bool :=
  match a.threshold with
  | none => false
  | some x => !a.fired && decide (x ≤ c)

/-- The alarm after a pass at counter value `c` (R179). -/
def Alarm.afterPass (a : Alarm) (c : Nat) : Alarm := if a.reached c then { a with fired := true } else a

/-- Every field `VCT.START` needs has been written (R183). -/
def Vct.written (T : Vct) : Bool :=
  T.frequencyHz.isSome && T.overflowModulus.isSome && T.alarms.all fun a => a.threshold.isSome

/-- The timer is due (R217): its scheduler is armed for this instant. -/
def Vct.due (T : Vct) (now : Nat) : Bool := T.deadline == some now

end Sys2Proof.Machine
end

