-- ==== Sys2Proof/Machine/Wiring.lean ====
section
/-! DEFINITION. The well-formedness of a configuration (`spec/00_scope.md` R5, `spec/45_wiring_and_time.md` R211) and
the construction of a machine (`spec/60_exceptions.md` R231, `spec/70_reset_and_hazards.md` R260). -/

namespace Sys2Proof.Machine

/-- The bounds of the unit counts (R5). -/
def countsOk (cfg : Config) : Bool :=
  decide (cfg.nCLC ≤ indexBound) && decide (cfg.nSRL ≤ indexBound) && decide (cfg.nSRB ≤ indexBound)
    && decide (cfg.nSRBX ≤ indexBound) && decide (cfg.nVCT ≤ indexBound)
    && decide (1 ≤ cfg.nLINES) && decide (cfg.nLINES ≤ indexBound)

/-- Every unit has its wiring record (R211). -/
def recordsPresent (cfg : Config) : Bool :=
  decide (cfg.sinkSRL.length = cfg.nSRL) && decide (cfg.banks.length = cfg.nSRB)
    && decide (cfg.exts.length = cfg.nSRBX) && decide (cfg.timers.length = cfg.nVCT)

/-- The sink of a RequestLine: an Arbiter line takes its priority from the value (R211). -/
def srlSinkOk (nLINES : Nat) : Sink → Bool
  | .arb id _ _ .fromValue => decide (id < nLINES)
  | .arb _ _ _ (.fixed _) => false
  | .ext _ => true

/-- The sink of a bank line: an Arbiter line has a fixed priority (R211). -/
def srbSinkOk (nLINES : Nat) : Sink → Bool
  | .arb id _ _ (.fixed _) => decide (id < nLINES)
  | .arb _ _ _ .fromValue => false
  | .ext _ => true

/-- The router returns a line of the bank for event `e`, if the bank has that event (R211). -/
def routerEventOk (bc : BankConfig) (e : Nat) : Bool :=
  !bc.evMask.getLsbD e || match bankRoute bc e with
    | none => false
    | some j => decide (j < bc.nOut)

/-- The router is defined on every event of `EVMASK` and returns a line of the bank (R211). -/
def routerOk (bc : BankConfig) : Bool := (List.range 32).all (routerEventOk bc)

/-- The record of a bank (R5, R211). -/
def bankOk (nLINES : Nat) (bc : BankConfig) : Bool :=
  decide (1 ≤ bc.nOut) && decide (bc.nOut ≤ 32) && decide (bc.sinks.length = bc.nOut)
    && bc.sinks.all (srbSinkOk nLINES) && routerOk bc

/-- Exactly one bit of the word is set. -/
def oneBitSet (m : Word) : Bool := (List.range 32).countP (fun e => m.getLsbD e) == 1

/-- The record of an extension (R211): the parent exists and the parent bit is one event of it. -/
def extOk (cfg : Config) (xc : ExtConfig) : Bool :=
  decide (xc.parent < cfg.nSRB) && oneBitSet xc.parentEventMask
    && xc.parentEventMask &&& (bankConfig cfg xc.parent).evMask == xc.parentEventMask

/-- A route names an existing unit (R211, R214). -/
def routeOk (cfg : Config) : Route → Bool
  | .none => true
  | .srl r => decide (r < cfg.nSRL)
  | .srb b _ => decide (b < cfg.nSRB)
  | .srbx x _ => decide (x < cfg.nSRBX)

/-- The record of a timer (R5, R211). -/
def timerOk (cfg : Config) (tc : TimerConfig) : Bool :=
  decide (tc.nAlarm ≤ 256) && decide (tc.alarmRoutes.length = tc.nAlarm) && routeOk cfg tc.overflowRoute
    && tc.alarmRoutes.all (routeOk cfg)

/-- The Arbiter line a sink names. -/
def sinkLine : Sink → Option Nat
  | .arb id _ _ _ => some id
  | .ext _ => none

/-- Every sink of the configuration: the RequestLines', then the banks', line by line. -/
def allSinks (cfg : Config) : List Sink := cfg.sinkSRL ++ cfg.banks.flatMap fun bc => bc.sinks

/-- No two sinks name the same Arbiter line (R211). -/
def oneDriverPerLine (cfg : Config) : Bool := decide ((allSinks cfg).filterMap sinkLine).Nodup

/-- The configuration is well-formed (R5, R211). The one-driver rule for issuer commands is a condition on programs, not
on the configuration (log 17). -/
def configOk (cfg : Config) : Bool :=
  countsOk cfg && recordsPresent cfg && cfg.sinkSRL.all (srlSinkOk cfg.nLINES) && cfg.banks.all (bankOk cfg.nLINES)
    && cfg.exts.all (extOk cfg) && cfg.timers.all (timerOk cfg) && oneDriverPerLine cfg

/-! ### The bad records of a configuration (R232) -/

/-- The entry `i` of a list that must have `n` entries, each meeting `ok`, is missing, superfluous or bad. -/
def badEntry {α : Type} (n : Nat) (xs : List α) (ok : α → Bool) (i : Nat) : Bool :=
  match xs[i]? with
  | none => decide (i < n)
  | some x => decide (n ≤ i) || !ok x

/-- The bad entries of such a list, ascending. -/
def badEntries {α : Type} (n : Nat) (xs : List α) (ok : α → Bool) : List Nat :=
  (List.range (max n xs.length)).filter (badEntry n xs ok)

/-- The number of units of a kind, or of Arbiter lines, is within its bounds (R5). -/
def countOk (cfg : Config) (space : IndexSpace) : Bool :=
  decide (unitCount cfg space ≤ indexBound) && (space != .arb || decide (1 ≤ cfg.nLINES))

/-- The counts out of bounds. -/
def badCounts (cfg : Config) : List ConfigRecord :=
  ([.clc, .srl, .srb, .srbx, .vct, .arb].filter fun space => !countOk cfg space).map .count

/-- The bad records of bank `b`. -/
def badInBank (nLINES b : Nat) (bc : BankConfig) : List ConfigRecord :=
  (if 1 ≤ bc.nOut ∧ bc.nOut ≤ 32 then [] else [.bank b])
    ++ (badEntries bc.nOut bc.sinks (srbSinkOk nLINES)).map (.sinkSRB b)
    ++ ((List.range 32).filter fun e => !routerEventOk bc e).map (.router b)

/-- The bad records of timer `t`. -/
def badInTimer (cfg : Config) (t : Nat) (tc : TimerConfig) : List ConfigRecord :=
  (if tc.nAlarm ≤ 256 then [] else [.timer t])
    ++ (if routeOk cfg tc.overflowRoute then [] else [.route t .overflow])
    ++ (badEntries tc.nAlarm tc.alarmRoutes (routeOk cfg)).map fun i => .route t (.alarm i)

/-- The bad records of the units `0 .. n - 1` with the records `xs`: `whole i` for a missing or superfluous record, else
those inside it. -/
def badInUnits {α : Type} (n : Nat) (xs : List α) (whole : Nat → ConfigRecord) (inside : Nat → α → List ConfigRecord) :
    List ConfigRecord :=
  (List.range (max n xs.length)).flatMap fun i =>
    match xs[i]? with
    | none => [whole i]
    | some x => if n ≤ i then [whole i] else inside i x

/-- The Arbiter lines that several sinks name. -/
def badDrivers (cfg : Config) : List ConfigRecord :=
  let ids := (allSinks cfg).filterMap sinkLine
  (ids.filter fun id => decide (1 < ids.count id)).map .driver

/-- Every missing or bad record of a configuration (R211, R232). -/
def badRecords (cfg : Config) : List ConfigRecord :=
  badCounts cfg ++ (badEntries cfg.nSRL cfg.sinkSRL (srlSinkOk cfg.nLINES)).map .sinkSRL
    ++ badInUnits cfg.nSRB cfg.banks .bank (badInBank cfg.nLINES)
    ++ (badEntries cfg.nSRBX cfg.exts (extOk cfg)).map .ext
    ++ badInUnits cfg.nVCT cfg.timers .timer (badInTimer cfg) ++ badDrivers cfg

/-- Construction of a machine (R231, R260): a well-formed configuration gives the machine in its reset state; an
ill-formed one the ConfigurationError, which records the first bad record (R232, log 24), and no machine. -/
def construct (cfg : Config) : Except FaultRecord State :=
  match badRecords cfg with
  | [] => .ok (State.resetOf cfg)
  | bad :: _ => .error (.cfg bad)

end Sys2Proof.Machine
end

