-- ==== Sys2Proof/Machine/Ops.lean ====
section
/-! DEFINITION. The named operations the commands share, in the spec's pseudocode: raising a fault
(`spec/60_exceptions.md` R230), arbitration, taking and acknowledging a line (`spec/43_arbiter.md`), delivery and
routes (`spec/45_wiring_and_time.md` R212 to R214), the update procedures of RequestLines and banks, and the helper
procedures of the timer (`spec/44_dynamictimer.md` R175 to R179, R183, R187). -/

namespace Sys2Proof.Machine

/-- The outcome of one command. -/
abbrev Result := Host.Outcome State Fault Refusal

/-- `RESP <- v` at the end of a command that completes (R11). -/
def respond (v : DoubleWord) (s : State) : State := s.setResp (some v)

/-- A command that completes with the response `v`. -/
def done (v : DoubleWord) (s : State) : Result := .next (respond v s)

/-- `raise code(info)` (R11, R230): every effect of the command is discarded, there is no event and no response, and the
fault record is written if it was none. Called on the state before the command. -/
def raise (r : FaultRecord) (s : State) : State :=
  (s.setFault (if s.fault.isNone then some r else s.fault)).setResp none

/-- The index check that every operation with an index begins with (R61, R233). -/
def withUnit (space : IndexSpace) (i : Nat) (s : State) (body : Result) : Result :=
  if unitCount s.cfg space ≤ i then .next (raise (.prgId space i) s) else body

/-! ### The Arbiter -/

/-- Line `i` is eligible in class `k` (R150). -/
def eligible (s : State) (k : IrqClass) (i : Nat) : Bool :=
  (s.lineAt i).asserted && (s.lineAt i).cls == k && !(s.classAt k).excludes (s.lineAt i).priority

/-- The line's key is strictly larger (R151): larger priority, or equal priority and larger weight. -/
def outranks (l m : ArbLine) : Bool :=
  decide (m.priority.toNat < l.priority.toNat)
    || (l.priority == m.priority && decide (m.nestWeight.toNat < l.nestWeight.toNat))

/-- The better of the candidate so far and line `i`, ids in ascending order: on equal keys the smaller id stays (R151). -/
def pickBetter (s : State) (k : IrqClass) (acc : Option Nat) (i : Nat) : Option Nat :=
  if eligible s k i then
    match acc with
    | none => some i
    | some j => if outranks (s.lineAt i) (s.lineAt j) then some i else some j
  else acc

/-- `best(k)` (R151): the eligible line with the highest priority, then the highest weight, then the lowest id. -/
def best (s : State) (k : IrqClass) : Option Nat := (List.range s.cfg.nLINES).foldl (pickBetter s k) none

/-- `OutEdge(k, OUT[k])` if the output is no longer `old` (R11, R152). -/
def emitEdge (k : IrqClass) (old : Bool) (s : State) : State :=
  if s.out k = old then s else s.emit (.outEdge k (s.out k))

/-- The class with `selectedLineId` replaced. -/
def select (k : IrqClass) (i : Option Nat) (s : State) : State :=
  s.setClass k { s.classAt k with selectedLineId := i }

/-- `ARBITRATE(k)` (R152). -/
def arbitrate (k : IrqClass) (s : State) : State := emitEdge k (s.out k) (select k (best s k) s)

/-- Arbitrate unless the class is Locked (R153, R156). -/
def rearbitrate (k : IrqClass) (s : State) : State :=
  if (s.classAt k).lockedLineId = none then arbitrate k s else s

/-- The entry `ARB.SETLEVEL` writes (R153): all four fields on every call, the weight as 0 on a flat Arbiter. -/
def newLine (nestEnabled : Bool) (cls : IrqClass) (priority nest : Byte) (level : Bool) : ArbLine :=
  { isFastClass := cls == .fast, priority := priority, nestWeight := if nestEnabled then nest else 0#8,
    asserted := level }

/-- The body of `ARB.SETLEVEL` (R153), performed by the command and by every delivery to an Arbiter sink (R213). -/
def setLevel (id : Nat) (cls : IrqClass) (priority nest : Byte) (level : Bool) (s : State) : State :=
  rearbitrate .fast (rearbitrate .normal (s.setLine id (newLine s.cfg.nestEnabled cls priority nest level)))

/-- Taking an interrupt (R154, R239): Pending(i) becomes Locked(i) and the output falls; Idle and Locked stay. -/
def takeLine (k : IrqClass) (s : State) : State :=
  match (s.classAt k).state with
  | .idle => s
  | .locked _ => s
  | .pending i =>
    (s.setClass k { s.classAt k with selectedLineId := none, lockedLineId := some i }).emit (.outEdge k false)

/-- The line `ARB.TAKE` answers with (R154). -/
def takenLine (k : IrqClass) (s : State) : Option Nat :=
  match (s.classAt k).state with
  | .idle => none
  | .locked i => some i
  | .pending i => some i

/-- An acknowledge consumes the line (R155): `ACK_CONSUMES`, and the line is still of the class. -/
def consumeLine (k : IrqClass) (i : Nat) (s : State) : State :=
  if s.cfg.ackConsumes && (s.lineAt i).cls == k then s.setLine i { s.lineAt i with asserted := false } else s

/-- Returning from an interrupt (R155, R240): consume the locked line, release the lock, arbitrate at once. -/
def ackLine (k : IrqClass) (i : Nat) (s : State) : State :=
  let s1 := consumeLine k i s
  arbitrate k (s1.setClass k { s1.classAt k with lockedLineId := none })

/-! ### Delivery (R212, R213) -/

/-- The priority a delivery of `v` gives its line (R213): `v - 1`, or the fixed one of the wiring. -/
def deliveredPriority (prio : PrioSource) (v : Nat) : Byte :=
  match prio with
  | .fromValue => BitVec.ofNat 8 (v - 1)
  | .fixed p => p

/-- `Deliver(sink, v)` (R212): the event, then what the sink does. An Arbiter line is driven by the body of
`ARB.SETLEVEL`; on the sentinel 0 it keeps its priority (R213). -/
def deliver (sink : Sink) (v : Nat) (s : State) : State :=
  let s1 := s.emit (.deliver sink v)
  match sink with
  | .ext _ => s1
  | .arb id cls nest prio =>
    if v = 0 then setLevel id cls (s1.lineAt id).priority nest false s1
    else setLevel id cls (deliveredPriority prio v) nest true s1

/-! ### RequestLine and RequestBank updates -/

/-- `SRL_UPDATE(r)` (R111): deliver only when `pending AND enabled` differs from the delivered state. -/
def srlUpdate (r : Nat) (s : State) : State :=
  let u := s.srlAt r
  if u.level = u.deliveredState then s
  else deliver (sinkOfSrl s.cfg r) u.forwarded (s.setSrl r { u with deliveredState := u.level })

/-- The write of `SRL.ASSERT` and `SRL.CLEAR`, and of a route to a RequestLine (R114, R115, R214). -/
def srlSetPending (r : Nat) (p : Bool) (s : State) : State :=
  srlUpdate r (s.setSrl r { s.srlAt r with pending := p })

/-- One line of `SRB_UPDATE` (R125), for the active events `act`. -/
def srbLineUpdate (b : Nat) (act : Word) (s : State) (j : Nat) : State :=
  let bc := bankConfig s.cfg b
  let u := s.srbAt b
  let agg := bankAggregate bc act j
  if agg = u.deliveredPerLine[j]?.getD false then s
  else deliver (bankSink bc j) agg.toNat (s.setSrb b { u with deliveredPerLine := u.deliveredPerLine.set j agg })

/-- `SRB_UPDATE(b)` (R125): every line in ascending order. -/
def srbUpdate (b : Nat) (s : State) : State :=
  (List.range (bankConfig s.cfg b).nOut).foldl (srbLineUpdate b (s.srbAt b).active) s

/-- The state change of `SRB.SETMASK` (R126). -/
def srbSetMaskBits (b : Nat) (bits : Word) (s : State) : State :=
  srbUpdate b (s.setSrb b { s.srbAt b with mask := bits &&& (bankConfig s.cfg b).evMask })

/-- The state change of `SRB.SETRAW` (R127), also performed by a route and by an extension's forward (R135, R214). -/
def srbSetRawBits (b : Nat) (bits : Word) (s : State) : State :=
  srbUpdate b (s.setSrb b
    { s.srbAt b with rawStatus := (s.srbAt b).rawStatus ||| (bits &&& (bankConfig s.cfg b).evMask) })

/-- The state change of `SRB.CLEARRAW` (R128), also performed by an extension's forward (R135). -/
def srbClearRawBits (b : Nat) (bits : Word) (s : State) : State :=
  srbUpdate b (s.setSrb b { s.srbAt b with rawStatus := (s.srbAt b).rawStatus &&& ~~~bits })

/-- The shape of every mutating extension operation (R135): replace the record, and forward the aggregate's transition
as the one parent bit. -/
def srbxChange (x : Nat) (new : Srbx) (s : State) : State :=
  let xc := extConfig s.cfg x
  let before := (s.srbxAt x).aggregate
  let s1 := s.setSrbx x new
  if !before && new.aggregate then srbSetRawBits xc.parent xc.parentEventMask s1
  else if before && !new.aggregate then srbClearRawBits xc.parent xc.parentEventMask s1
  else s1

/-- The state change of `SRBX.SETRAW` (R137), also performed by a route (R214). -/
def srbxSetRawBits (x : Nat) (bits : Word) (s : State) : State :=
  srbxChange x
    { s.srbxAt x with rawStatus := (s.srbxAt x).rawStatus ||| (bits &&& (extConfig s.cfg x).xevMask) } s

/-! ### The timer -/

/-- The rate a timer counts at: its frequency while it runs at a nonzero one (R175, R178; a running timer with an
unwritten frequency does not exist, R35 (g), log 15). -/
def Vct.rate (T : Vct) : Option Nat :=
  match T.running, T.frequencyHz with
  | true, some f => if f = 0 then none else some f
  | _, _ => none

/-- `cnt(t, now)` (R31, R175), exact on naturals. -/
def Vct.count (T : Vct) (now : Nat) : Nat :=
  match T.rate with
  | some f => T.counterBase + (now - T.baseTimestamp) * f / nsPerSecond
  | none => T.counterBase

/-- The exact integer ceiling of `a / b`, for `b > 0` (R9). -/
def ceilDiv (a b : Nat) : Nat := (a + (b - 1)) / b

/-- `reach(t, X)` (R177): the first instant at which the counter is at least `X`. -/
def Vct.reach (T : Vct) (f X : Nat) : Nat := T.baseTimestamp + ceilDiv ((X - T.counterBase) * nsPerSecond) f

/-- `off(t, X)` (R177), never negative. -/
def Vct.offset (T : Vct) (f now X : Nat) : Nat := T.reach f X - now

/-- The counts a timer is armed for (R178): the modulus and the threshold of every unfired alarm. -/
def Vct.targets (T : Vct) : List Nat :=
  T.overflowModulus.toList ++ T.alarms.filterMap fun a => if a.fired then none else a.threshold

/-- The deadline `SCHEDULE` arms (R178): `NOW` plus the least offset, or none while the timer does not count. -/
def Vct.armAt (T : Vct) (now : Nat) : Option Nat :=
  match T.rate with
  | none => none
  | some f => ((T.targets.map (T.offset f now)).min?).map (now + ·)

/-- `SCHEDULE(t)` (R178). -/
def schedule (t : Nat) (s : State) : State :=
  s.setVct t { s.vctAt t with deadline := (s.vctAt t).armAt s.now }

/-- `REBASE(t)` (R176): fold elapsed time into `counterBase`. -/
def Vct.rebase (T : Vct) (now : Nat) : Vct := { T with counterBase := T.count now, baseTimestamp := now }

/-- Clear every alarm's fired flag (R182, R187). -/
def Vct.clearFired (T : Vct) : Vct := { T with alarms := T.alarms.map fun a => { a with fired := false } }

/-- What a route does (R214). -/
def performRoute (route : Route) (s : State) : State :=
  match route with
  | .none => s
  | .srl r => srlSetPending r true s
  | .srb b bits => srbSetRawBits b bits s
  | .srbx x bits => srbxSetRawBits x bits s

/-- `Fire(t, k)` (R214): the event, then the configured route. -/
def fire (t : Nat) (k : Callback) (s : State) : State :=
  performRoute (routeOf s.cfg t k) (s.emit (.fire t k))

/-- One alarm of `ALARMPASS(t, c)` (R179). -/
def alarmStep (t c : Nat) (s : State) (i : Nat) : State :=
  let T := s.vctAt t
  let a := T.alarms[i]?.getD Alarm.reset
  if a.reached c then fire t (.alarm i) (s.setVct t { T with alarms := T.alarms.set i (a.afterPass c) }) else s

/-- `ALARMPASS(t, c)` (R179): the alarms in ascending order. -/
def alarmPass (t c : Nat) (s : State) : State := (List.range (alarmCount s.cfg t)).foldl (alarmStep t c) s

/-- The overflow part of a pass (R187): counter to 0, the overflow callback, every fired flag cleared, the alarm pass
once more at count 0. -/
def overflowPass (t : Nat) (s : State) : State :=
  let s1 := fire t .overflow (s.setVct t { s.vctAt t with counterBase := 0, baseTimestamp := s.now })
  alarmPass t 0 (s1.setVct t (s1.vctAt t).clearFired)

/-- The count has reached the modulus (R187). -/
def Vct.overflows (T : Vct) (c : Nat) : Bool :=
  match T.overflowModulus with
  | none => false
  | some m => decide (m ≤ c)

/-- The count that a pass holds against the alarms: at most the modulus, so that an alarm whose threshold is above the
modulus never fires (R178, R186, R263, R274). R187's pseudocode does not cut the count; the two differ only when a pass
finds the count past the modulus (DEDUCED, log 26). -/
def Vct.alarmCountAt (T : Vct) (c : Nat) : Nat :=
  match T.overflowModulus with
  | none => c
  | some m => min c m

/-- The scheduling pass (R187), run by `VCT.TICK` and by `DUE(t)` (R217). -/
def tickPass (t : Nat) (s : State) : State :=
  match (s.vctAt t).rate with
  | none => s.setVct t { s.vctAt t with deadline := none }
  | some _ =>
    let c := (s.vctAt t).count s.now
    let s1 := alarmPass t ((s.vctAt t).alarmCountAt c) s
    schedule t (if (s.vctAt t).overflows c then overflowPass t s1 else s1)

end Sys2Proof.Machine
end

