-- ==== Sys2Proof/Machine/Arbiter.lean ====
section
/-! DEFINITION. The Arbiter operations (`spec/43_arbiter.md` R153 to R156). -/

namespace Sys2Proof.Machine

/-- `ARB.SETLEVEL` (R153). -/
def execArbSetlevel (id : Nat) (cls : IrqClass) (priority nestWeight : Byte) (level : Bool) (s : State) : Result :=
  withUnit .arb id s (done 0#64 (setLevel id cls priority nestWeight level s))

/-- `ARB.TAKE` (R154): the read that takes an interrupt. -/
def execArbTake (cls : IrqClass) (s : State) : Result :=
  done (respTake (takenLine cls s)) (takeLine cls s)

/-- `ARB.ACK` (R155): legal only from Locked. -/
def execArbAck (cls : IrqClass) (s : State) : Result :=
  match (s.classAt cls).lockedLineId with
  | none => .next (raise (.prgAck cls) s)
  | some i => done 0#64 (ackLine cls i s)

/-- `ARB.SETMASK` (R156): set or clear the filter, and re-arbitrate unless Locked. -/
def execArbSetmask (cls : IrqClass) (enable : Bool) (n : Byte) (s : State) : Result :=
  done 0#64 (rearbitrate cls
    (s.setClass cls { s.classAt cls with maskBelowPriority := if enable then some n else none }))

end Sys2Proof.Machine
end

