-- ==== Sys2Proof/Machine/ClockControl.lean ====
section
/-! DEFINITION. The ClockControl operations (`spec/40_clockcontrol.md` R101 to R105). -/

namespace Sys2Proof.Machine

/-- `CLC.INIT` (R101). -/
def execClcInit (c : Nat) (s : State) : Result :=
  withUnit .clc c s (done 0#64 (s.setClc c { s.clcAt c with value := clcResetPattern }))

/-- `CLC.SET` (R102). -/
def execClcSet (c : Nat) (value : Word) (s : State) : Result :=
  withUnit .clc c s (done 0#64 (s.setClc c { s.clcAt c with value := clcWithStatus value }))

/-- `CLC.GET` (R103). -/
def execClcGet (c : Nat) (s : State) : Result :=
  withUnit .clc c s (done (respWord (s.clcAt c).value) s)

/-- `CLC.ISEN` (R104): the disable-request bit is clear. -/
def execClcIsen (c : Nat) (s : State) : Result :=
  withUnit .clc c s (done (respBool (!clcDisr (s.clcAt c).value)) s)

/-- `CLC.GETPRE` (R105). -/
def execClcGetpre (c : Nat) (s : State) : Result :=
  withUnit .clc c s (done (respByte (clcPresc (s.clcAt c).value)) s)

end Sys2Proof.Machine
end

