-- ==== Sys2Proof/Machine/DynamicTimer.lean ====
section
/-! DEFINITION. The DynamicTimer operations (`spec/44_dynamictimer.md` R180 to R182, R184 to R189). -/

namespace Sys2Proof.Machine

/-- `VCT.START` (R180): nothing on a running timer; otherwise every field must have been written. -/
def execVctStart (t : Nat) (s : State) : Result :=
  withUnit .vct t s <|
    if (s.vctAt t).running then done 0#64 s
    else if (s.vctAt t).written then
      done 0#64 (schedule t (s.setVct t { s.vctAt t with baseTimestamp := s.now, running := true }))
    else .next (raise (.unwritten t) s)

/-- `VCT.STOP` (R181): nothing on a stopped timer; otherwise rebase, stop and disarm. -/
def execVctStop (t : Nat) (s : State) : Result :=
  withUnit .vct t s <|
    if (s.vctAt t).running then
      done 0#64 (s.setVct t { (s.vctAt t).rebase s.now with running := false, deadline := none })
    else done 0#64 s

/-- `VCT.RESET` (R182): counter to 0 and every fired flag cleared; nothing else of the timer. -/
def execVctReset (t : Nat) (s : State) : Result :=
  withUnit .vct t s <|
    done 0#64 (schedule t (s.setVct t
      { (s.vctAt t).clearFired with counterBase := 0, baseTimestamp := s.now }))

/-- `VCT.SETFREQ` (R184): rebase at the old rate, then change the rate. -/
def execVctSetfreq (t hz : Nat) (s : State) : Result :=
  withUnit .vct t s <|
    done 0#64 (schedule t (s.setVct t { (s.vctAt t).rebase s.now with frequencyHz := some hz }))

/-- The timer after `VCT.SETOVF` has stored the modulus (R185): clamped to it, and rebased, only if the counter exceeds
it. -/
def Vct.clampTo (T : Vct) (modulus now : Nat) : Vct :=
  if modulus < T.count now then
    { T with overflowModulus := some modulus, counterBase := modulus, baseTimestamp := now }
  else { T with overflowModulus := some modulus }

/-- `VCT.SETOVF` (R185). -/
def execVctSetovf (t modulus : Nat) (s : State) : Result :=
  withUnit .vct t s <|
    if modulus = 0 then .next (raise (.prgMod0 t) s)
    else done 0#64 (schedule t (s.setVct t ((s.vctAt t).clampTo modulus s.now)))

/-- `VCT.SETALARM` (R186): store the threshold; the alarm is marked fired exactly if the counter has reached it. -/
def execVctSetalarm (t alarm ticks : Nat) (s : State) : Result :=
  withUnit .vct t s <|
    if alarmCount s.cfg t ≤ alarm then .next (raise (.prgId .vctAlarm alarm) s)
    else done 0#64 (schedule t (s.setVct t
      { s.vctAt t with
        alarms := (s.vctAt t).alarms.set alarm ⟨some ticks, decide (ticks ≤ (s.vctAt t).count s.now)⟩ }))

/-- `VCT.TICK` (R187): the scheduling pass as a command. -/
def execVctTick (t : Nat) (s : State) : Result :=
  withUnit .vct t s (done 0#64 (tickPass t s))

/-- `VCT.GETCNT` (R188). -/
def execVctGetcnt (t : Nat) (s : State) : Result :=
  withUnit .vct t s (done (respNat ((s.vctAt t).count s.now)) s)

/-- `VCT.NEXT` (R189). -/
def execVctNext (t : Nat) (s : State) : Result :=
  withUnit .vct t s (done (respNext (s.vctAt t).deadline s.now) s)

end Sys2Proof.Machine
end

