-- ==== Sys2Proof/Machine/RequestBank.lean ====
section
/-! DEFINITION. The RequestBank and RequestBankExtension operations (`spec/42_requestbank.md` R126 to R131, R136 to
R141). -/

namespace Sys2Proof.Machine

/-- `SRB.SETMASK` (R126). -/
def execSrbSetmask (b : Nat) (bits : Word) (s : State) : Result :=
  withUnit .srb b s (done 0#64 (srbSetMaskBits b bits s))

/-- `SRB.SETRAW` (R127). -/
def execSrbSetraw (b : Nat) (bits : Word) (s : State) : Result :=
  withUnit .srb b s (done 0#64 (srbSetRawBits b bits s))

/-- `SRB.CLEARRAW` (R128). -/
def execSrbClearraw (b : Nat) (bits : Word) (s : State) : Result :=
  withUnit .srb b s (done 0#64 (srbClearRawBits b bits s))

/-- `SRB.GETMASK` (R129). -/
def execSrbGetmask (b : Nat) (s : State) : Result :=
  withUnit .srb b s (done (respWord (s.srbAt b).mask) s)

/-- `SRB.GETRAW` (R130). -/
def execSrbGetraw (b : Nat) (s : State) : Result :=
  withUnit .srb b s (done (respWord (s.srbAt b).rawStatus) s)

/-- `SRB.GETMIS` (R131). -/
def execSrbGetmis (b : Nat) (s : State) : Result :=
  withUnit .srb b s (done (respWord (s.srbAt b).active) s)

/-- `SRBX.SETMASK` (R136). -/
def execSrbxSetmask (x : Nat) (bits : Word) (s : State) : Result :=
  withUnit .srbx x s (done 0#64
    (srbxChange x { s.srbxAt x with mask := bits &&& (extConfig s.cfg x).xevMask } s))

/-- `SRBX.SETRAW` (R137). -/
def execSrbxSetraw (x : Nat) (bits : Word) (s : State) : Result :=
  withUnit .srbx x s (done 0#64 (srbxSetRawBits x bits s))

/-- `SRBX.CLEARRAW` (R138). -/
def execSrbxClearraw (x : Nat) (bits : Word) (s : State) : Result :=
  withUnit .srbx x s (done 0#64
    (srbxChange x { s.srbxAt x with rawStatus := (s.srbxAt x).rawStatus &&& ~~~bits } s))

/-- `SRBX.GETMASK` (R139). -/
def execSrbxGetmask (x : Nat) (s : State) : Result :=
  withUnit .srbx x s (done (respWord (s.srbxAt x).mask) s)

/-- `SRBX.GETRAW` (R140). -/
def execSrbxGetraw (x : Nat) (s : State) : Result :=
  withUnit .srbx x s (done (respWord (s.srbxAt x).rawStatus) s)

/-- `SRBX.GETMIS` (R141). -/
def execSrbxGetmis (x : Nat) (s : State) : Result :=
  withUnit .srbx x s (done (respWord (s.srbxAt x).active) s)

end Sys2Proof.Machine
end

