-- ==== Sys2Proof/Machine/RequestLine.lean ====
section
/-! DEFINITION. The RequestLine operations (`spec/41_requestline.md` R112 to R115). -/

namespace Sys2Proof.Machine

/-- `SRL.SET` (R112): store the raw value, `SETR` and `CLRR` folded into the request flag, then update. -/
def execSrlSet (r : Nat) (w : Half) (s : State) : Result :=
  withUnit .srl r s (done 0#64 (srlUpdate r (s.setSrl r
    { s.srlAt r with priority := srlPrio w, enabled := srlEn w, pending := srlFoldPending w })))

/-- `SRL.GET` (R113). -/
def execSrlGet (r : Nat) (s : State) : Result :=
  withUnit .srl r s (done (respSrl (s.srlAt r)) s)

/-- `SRL.ASSERT` (R114). -/
def execSrlAssert (r : Nat) (s : State) : Result :=
  withUnit .srl r s (done 0#64 (srlSetPending r true s))

/-- `SRL.CLEAR` (R115). -/
def execSrlClear (r : Nat) (s : State) : Result :=
  withUnit .srl r s (done 0#64 (srlSetPending r false s))

end Sys2Proof.Machine
end

