-- ==== Sys2Proof/Machine/Dispatch.lean ====
section
/-! DEFINITION. The dispatch of a decoded command to its meaning, one arm per row of the opcode table. -/

namespace Sys2Proof.Machine

def exec (i : Instr) (s : State) : Host.Outcome State Fault Refusal :=
  match i with
  | .clcInit c => Sys2Proof.Machine.execClcInit c s
  | .clcSet c value => Sys2Proof.Machine.execClcSet c value s
  | .clcGet c => Sys2Proof.Machine.execClcGet c s
  | .clcIsen c => Sys2Proof.Machine.execClcIsen c s
  | .clcGetpre c => Sys2Proof.Machine.execClcGetpre c s
  | .srlSet r w => Sys2Proof.Machine.execSrlSet r w s
  | .srlGet r => Sys2Proof.Machine.execSrlGet r s
  | .srlAssert r => Sys2Proof.Machine.execSrlAssert r s
  | .srlClear r => Sys2Proof.Machine.execSrlClear r s
  | .srbSetmask b bits => Sys2Proof.Machine.execSrbSetmask b bits s
  | .srbSetraw b bits => Sys2Proof.Machine.execSrbSetraw b bits s
  | .srbClearraw b bits => Sys2Proof.Machine.execSrbClearraw b bits s
  | .srbGetmask b => Sys2Proof.Machine.execSrbGetmask b s
  | .srbGetraw b => Sys2Proof.Machine.execSrbGetraw b s
  | .srbGetmis b => Sys2Proof.Machine.execSrbGetmis b s
  | .srbxSetmask x bits => Sys2Proof.Machine.execSrbxSetmask x bits s
  | .srbxSetraw x bits => Sys2Proof.Machine.execSrbxSetraw x bits s
  | .srbxClearraw x bits => Sys2Proof.Machine.execSrbxClearraw x bits s
  | .srbxGetmask x => Sys2Proof.Machine.execSrbxGetmask x s
  | .srbxGetraw x => Sys2Proof.Machine.execSrbxGetraw x s
  | .srbxGetmis x => Sys2Proof.Machine.execSrbxGetmis x s
  | .arbSetlevel id cls priority nestWeight level => Sys2Proof.Machine.execArbSetlevel id cls priority nestWeight level s
  | .arbTake cls => Sys2Proof.Machine.execArbTake cls s
  | .arbAck cls => Sys2Proof.Machine.execArbAck cls s
  | .arbSetmask cls enable n => Sys2Proof.Machine.execArbSetmask cls enable n s
  | .vctStart t => Sys2Proof.Machine.execVctStart t s
  | .vctStop t => Sys2Proof.Machine.execVctStop t s
  | .vctReset t => Sys2Proof.Machine.execVctReset t s
  | .vctSetfreq t hz => Sys2Proof.Machine.execVctSetfreq t hz s
  | .vctSetovf t modulus => Sys2Proof.Machine.execVctSetovf t modulus s
  | .vctSetalarm t alarm ticks => Sys2Proof.Machine.execVctSetalarm t alarm ticks s
  | .vctTick t => Sys2Proof.Machine.execVctTick t s
  | .vctGetcnt t => Sys2Proof.Machine.execVctGetcnt t s
  | .vctNext t => Sys2Proof.Machine.execVctNext t s

end Sys2Proof.Machine
end

