-- ==== Sys2Proof/Machine/Port.lean ====
section
/-! DEFINITION. The three kinds of step of the machine (`spec/45_wiring_and_time.md` R216 to R219): the command port
(`spec/30_encoding.md` R80, R85), the virtual clock and the schedulers. `Step.lean` chooses among them. -/

namespace Sys2Proof.Machine

/-- Some timer is due at this instant (R217). -/
def anyDue (s : State) : Bool := s.vct.any fun T => T.due s.now

/-- Timer `t` exists and is due (R217). -/
def isDue (t : Nat) (s : State) : Bool := decide (t < s.vct.length) && (s.vctAt t).due s.now

/-- The clock step by `d` stops at or before the armed deadline of the timer (R216). -/
def Vct.admits (T : Vct) (target : Nat) : Bool :=
  match T.deadline with
  | none => true
  | some d => decide (target ≤ d)

/-- `ADVANCE(d)` is enabled (R216). -/
def advanceEnabled (d : Nat) (s : State) : Bool := decide (0 < d) && s.vct.all fun T => T.admits (s.now + d)

/-- A command at the port: decoded first, `ILLEGAL_CMD` if it matches no row (R85, R233), then executed. -/
def runCommand (cmd : Word) (data : DoubleWord) (s : State) : Result :=
  match decode cmd data with
  | .ok i => exec i s
  | .error _ => .next (raise (.illegalCmd cmd) s)

/-- A command is accepted when no scheduling pass is due (R217, R219). -/
def commandStep (cmd : Word) (data : DoubleWord) (s : State) : Result :=
  if anyDue s then .refused .commandWhileDue else runCommand cmd data s

/-- The clock step `ADVANCE(d)` (R216): `NOW` moves and nothing else changes. -/
def advanceStep (d : Nat) (s : State) : Result :=
  if advanceEnabled d s then .next (s.setNow (s.now + d)) else .refused .advanceNotEnabled

/-- The scheduler step `DUE(t)` (R217): the pass of `VCT.TICK t`. It is no command, so the response word stays (log 7). -/
def dueStep (t : Nat) (s : State) : Result :=
  if isDue t s then .next (tickPass t s) else .refused .passNotDue

/-- One move of the environment (R219). -/
def inputStep : Input → State → Result
  | .command cmd data, s => commandStep cmd data s
  | .advance d, s => advanceStep d s
  | .due t, s => dueStep t s

end Sys2Proof.Machine
end

