-- ==== Sys2Proof/Machine/Step.lean ====
section
/-! DEFINITION. One step of the machine (`spec/45_wiring_and_time.md` R219): the environment's next move, if the
machine admits it. -/

namespace Sys2Proof.Machine

/-- One step: a machine whose fault record is set has stopped (R230); no machine is built from an ill-formed
configuration (R231); otherwise the move at the head of `inputs` is taken off and made. -/
def step (s : State) : Host.Outcome State Fault Refusal :=
  match s.fault with
  | some r => .fault (.stopped r)
  | none =>
    if configOk s.cfg then
      match s.inputs with
      | [] => .refused .noInput
      | m :: rest => inputStep m (s.setInputs rest)
    else .refused .illFormedConfiguration

/-- The state with the command of a table word offered next: the issuer presents it as its next command (log 3). -/
def State.withFetchWord (s : State) (nbits w : Nat) : State :=
  s.setInputs (.command (tableCommand nbits w).1 (tableCommand nbits w).2 :: s.inputs)

end Sys2Proof.Machine
end

