-- ==== Sys2Proof/Machine/Assembler.lean ====
section
/-! DEFINITION. The textual syntax of command lines and the pseudo-operations (`spec/30_encoding.md` R88, R89). A line
is read to the instruction it names, the value written after `->`, or the time of an `@` line. A line that does not have
the form R88 or R89 gives is not read (DESIGN CHOICE, log 27). Nothing of the machine rests on this file. -/

namespace Sys2Proof.Machine

/-! ### Words and values -/

/-- A line up to its comment (R88: `#` starts a comment). -/
def dropComment (cs : List Char) : List Char := cs.takeWhile (· != '#')

/-- The words of a line: `cur` is the word being read, reversed. -/
def splitWords (cur : List Char) : List Char → List (List Char)
  | [] => if cur.isEmpty then [] else [cur.reverse]
  | c :: cs =>
    if c == ' ' then (if cur.isEmpty then splitWords [] cs else cur.reverse :: splitWords [] cs)
    else splitWords (c :: cur) cs

/-- The value of a digit. -/
def digitValue (c : Char) : Option Nat :=
  if '0' ≤ c ∧ c ≤ '9' then some (c.toNat - '0'.toNat)
  else if 'a' ≤ c ∧ c ≤ 'f' then some (c.toNat - 'a'.toNat + 10)
  else if 'A' ≤ c ∧ c ≤ 'F' then some (c.toNat - 'A'.toNat + 10)
  else none

/-- Read digits in a base, most significant first, onto the value so far. -/
def readDigits (base : Nat) : List Char → Nat → Option Nat
  | [], acc => some acc
  | c :: cs, acc =>
    match digitValue c with
    | some d => if d < base then readDigits base cs (base * acc + d) else none
    | none => none

/-- A decimal or `0x` hexadecimal value. -/
def readNat : List Char → Option Nat
  | [] => none
  | '0' :: 'x' :: c :: cs => readDigits 16 (c :: cs) 0
  | cs => readDigits 10 cs 0

/-- The operands of a line: names and the text of their values. -/
abbrev Operands := List (List Char × List Char)

/-- `name=value`. -/
def readOperand (word : List Char) : Option (List Char × List Char) :=
  match word.dropWhile (· != '=') with
  | _ :: v => some (word.takeWhile (· != '='), v)
  | [] => none

/-- The text of the operand of that name; operands stand in any order. -/
def operandText (ops : Operands) (name : String) : Option (List Char) :=
  (ops.find? fun o => o.1 == name.toList).map (·.2)

/-- A numeric operand. -/
def natOperand (ops : Operands) (name : String) : Option Nat := (operandText ops name).bind readNat

/-- A numeric operand that fits `width` bits. -/
def bitsOperand (ops : Operands) (name : String) (width : Nat) : Option (BitVec width) :=
  (natOperand ops name).bind fun n => if n < 2 ^ width then some (BitVec.ofNat width n) else none

/-- A one-bit operand. -/
def levelOperand (ops : Operands) (name : String) : Option Bool :=
  (bitsOperand ops name 1).map fun b => b == 1#1

/-- The class operand: `normal` or `fast`. -/
def classOperand (ops : Operands) : Option IrqClass :=
  match operandText ops "class" with
  | some v => if v == "normal".toList then some .normal else if v == "fast".toList then some .fast else none
  | none => none

/-- The filter operand of `ARB.SETMASK`: a threshold, or `off`, which clears the enable bit. -/
def filterOperand (ops : Operands) : Option (Bool × Byte) :=
  match operandText ops "n" with
  | some v => if v == "off".toList then some (false, 0#8) else (bitsOperand ops "n" 8).map fun n => (true, n)
  | none => none

/-! ### Pseudo-operations (R89) -/

/-- The pseudo-operations; the operands `ARB.LOWER` omits are `none`. -/
inductive Pseudo where
  | srlEnable (r : Nat) (prio : Byte)
  | arbRaise (id : Nat) (cls : IrqClass) (prio nest : Byte)
  | arbLower (id : Nat) (cls : Option IrqClass) (prio nest : Option Byte)
  deriving DecidableEq, Repr

/-- The raw value `SRL.ENABLE` writes (R89): the pending bit of the response kept, `EN = 1`, the priority given. -/
def enableValue (prio : Byte) (resp : DoubleWord) : Half :=
  BitVec.ofNat 16 (prio.toNat * 2 ^ srlPrioLow + 2 ^ srlEnBit + (resp.getLsbD srlPendBit).toNat * 2 ^ srlPendBit)

/-- The commands a pseudo-operation stands for when issued in state `s` (R89). -/
def expandPseudo (s : State) : Pseudo → List Instr
  | .srlEnable r prio => [.srlGet r, .srlSet r (enableValue prio (respSrl (s.srlAt r)))]
  | .arbRaise id cls prio nest => [.arbSetlevel id cls prio nest true]
  | .arbLower id cls prio nest =>
    [.arbSetlevel id (cls.getD (s.lineAt id).cls) (prio.getD (s.lineAt id).priority)
      (nest.getD (s.lineAt id).nestWeight) false]

/-! ### Lines -/

/-- What a line says. -/
inductive AsmLine where
  | instr (i : Instr) (response : Option Nat)
  | pseudo (p : Pseudo) (response : Option Nat)
  | time (ns : Nat)
  | blank
  deriving DecidableEq, Repr

/-- An operation with one instance index and no other operand. -/
def indexOnly (name : String) (mk : Nat → Instr) (ops : Operands) : Option Instr := (natOperand ops name).map mk

/-- An operation with an instance index and a 32-bit operand. -/
def indexWord (name field : String) (mk : Nat → Word → Instr) (ops : Operands) : Option Instr :=
  (natOperand ops name).bind fun i => (bitsOperand ops field 32).map (mk i)

/-- An operation with a timer index and a natural operand. -/
def indexNat (field : String) (mk : Nat → Nat → Instr) (ops : Operands) : Option Instr :=
  (natOperand ops "t").bind fun i => (natOperand ops field).map (mk i)

/-- `ARB.SETLEVEL id class prio nest level`. -/
def readSetlevel (ops : Operands) : Option Instr :=
  match natOperand ops "id", classOperand ops, bitsOperand ops "prio" 8, bitsOperand ops "nest" 8,
      levelOperand ops "level" with
  | some id, some k, some p, some n, some l => some (.arbSetlevel id k p n l)
  | _, _, _, _, _ => none

/-- `VCT.SETALARM t alarm ticks`. -/
def readSetalarm (ops : Operands) : Option Instr :=
  match natOperand ops "t", natOperand ops "alarm", natOperand ops "ticks" with
  | some t, some a, some n => some (.vctSetalarm t a n)
  | _, _, _ => none

/-- The mnemonics with the number of their operands and how these are read (R84, R88). -/
def mnemonicTable : List (String × Nat × (Operands → Option Instr)) :=
  [("CLC.INIT", 1, indexOnly "c" .clcInit), ("CLC.SET", 2, indexWord "c" "value" .clcSet),
   ("CLC.GET", 1, indexOnly "c" .clcGet), ("CLC.ISEN", 1, indexOnly "c" .clcIsen),
   ("CLC.GETPRE", 1, indexOnly "c" .clcGetpre),
   ("SRL.SET", 2, fun ops => (natOperand ops "r").bind fun r => (bitsOperand ops "w" 16).map (.srlSet r)),
   ("SRL.GET", 1, indexOnly "r" .srlGet), ("SRL.ASSERT", 1, indexOnly "r" .srlAssert),
   ("SRL.CLEAR", 1, indexOnly "r" .srlClear),
   ("SRB.SETMASK", 2, indexWord "b" "bits" .srbSetmask), ("SRB.SETRAW", 2, indexWord "b" "bits" .srbSetraw),
   ("SRB.CLEARRAW", 2, indexWord "b" "bits" .srbClearraw), ("SRB.GETMASK", 1, indexOnly "b" .srbGetmask),
   ("SRB.GETRAW", 1, indexOnly "b" .srbGetraw), ("SRB.GETMIS", 1, indexOnly "b" .srbGetmis),
   ("SRBX.SETMASK", 2, indexWord "x" "bits" .srbxSetmask), ("SRBX.SETRAW", 2, indexWord "x" "bits" .srbxSetraw),
   ("SRBX.CLEARRAW", 2, indexWord "x" "bits" .srbxClearraw), ("SRBX.GETMASK", 1, indexOnly "x" .srbxGetmask),
   ("SRBX.GETRAW", 1, indexOnly "x" .srbxGetraw), ("SRBX.GETMIS", 1, indexOnly "x" .srbxGetmis),
   ("ARB.SETLEVEL", 5, readSetlevel), ("ARB.TAKE", 1, fun ops => (classOperand ops).map .arbTake),
   ("ARB.ACK", 1, fun ops => (classOperand ops).map .arbAck),
   ("ARB.SETMASK", 2, fun ops =>
     (classOperand ops).bind fun k => (filterOperand ops).map fun f => .arbSetmask k f.1 f.2),
   ("VCT.START", 1, indexOnly "t" .vctStart), ("VCT.STOP", 1, indexOnly "t" .vctStop),
   ("VCT.RESET", 1, indexOnly "t" .vctReset), ("VCT.SETFREQ", 2, indexNat "hz" .vctSetfreq),
   ("VCT.SETOVF", 2, indexNat "modulus" .vctSetovf), ("VCT.SETALARM", 3, readSetalarm),
   ("VCT.TICK", 1, indexOnly "t" .vctTick), ("VCT.GETCNT", 1, indexOnly "t" .vctGetcnt),
   ("VCT.NEXT", 1, indexOnly "t" .vctNext)]

/-- The instruction of a mnemonic and its operands: every operand named once, every value in its field (log 27). -/
def readInstr (mnemonic : List Char) (ops : Operands) : Option Instr :=
  match mnemonicTable.find? fun row => row.1.toList == mnemonic with
  | none => none
  | some row =>
    if ops.length = row.2.1 then (row.2.2 ops).bind fun i => if i.wf then some i else none else none

/-- An index operand that fits `IDX`. -/
def indexOperand (ops : Operands) (name : String) : Option Nat := (natOperand ops name).filter idxFits

/-- An operand that may be omitted: `some none` without it; `none` if it is there and cannot be read. -/
def optionalOperand {α : Type} (ops : Operands) (name : String) (value : Option α) : Option (Option α) :=
  if (operandText ops name).isNone then some none else value.map some

/-- Every operand of the line is one of those names, and none stands twice. -/
def onlyOperands (ops : Operands) (names : List String) : Bool :=
  (ops.all fun o => names.any fun n => o.1 == n.toList) && decide (ops.map (·.1)).Nodup

/-- `SRL.ENABLE r prio`. -/
def readEnable (ops : Operands) : Option Pseudo :=
  (indexOperand ops "r").bind fun r => (bitsOperand ops "prio" 8).map (.srlEnable r)

/-- `ARB.RAISE id class prio nest`, all required. -/
def readRaise (ops : Operands) : Option Pseudo :=
  match indexOperand ops "id", classOperand ops, bitsOperand ops "prio" 8, bitsOperand ops "nest" 8 with
  | some id, some k, some p, some n => some (.arbRaise id k p n)
  | _, _, _, _ => none

/-- `ARB.LOWER id`, and `class`, `prio`, `nest` where they stand. -/
def readLower (ops : Operands) : Option Pseudo :=
  match indexOperand ops "id", optionalOperand ops "class" (classOperand ops),
      optionalOperand ops "prio" (bitsOperand ops "prio" 8), optionalOperand ops "nest" (bitsOperand ops "nest" 8) with
  | some id, some k, some p, some n => some (.arbLower id k p n)
  | _, _, _, _ => none

/-- The pseudo-operations with the names of their operands and how these are read (R89). -/
def pseudoTable : List (String × List String × (Operands → Option Pseudo)) :=
  [("SRL.ENABLE", ["r", "prio"], readEnable), ("ARB.RAISE", ["id", "class", "prio", "nest"], readRaise),
   ("ARB.LOWER", ["id", "class", "prio", "nest"], readLower)]

/-- The pseudo-operation of a mnemonic and its operands (R89). A line with another operand, a repeated one, or one whose
value cannot be read or does not fit its field is not read, also where `ARB.LOWER` could do without the operand: R89 is
silent on such lines (DESIGN CHOICE, log 27). -/
def readPseudo (mnemonic : List Char) (ops : Operands) : Option Pseudo :=
  match pseudoTable.find? fun row => row.1.toList == mnemonic with
  | none => none
  | some row => if onlyOperands ops row.2.1 then row.2.2 ops else none

/-- The operand words of a line, all of them or none. -/
def readOperands : List (List Char) → Option Operands
  | [] => some []
  | w :: ws => (readOperand w).bind fun o => (readOperands ws).map (o :: ·)

/-- What stands after the operands: nothing, or `->` and one value (R88; another end is not read, log 27). -/
def readResponse : List (List Char) → Option (Option Nat)
  | [] => some none
  | [_, v] => (readNat v).map some
  | _ => none

/-- A mnemonic with its operands, as an instruction or a pseudo-operation (R88, R89). -/
def readOperation (mnemonic : List Char) (ops : Operands) (response : Option Nat) : Option AsmLine :=
  match readInstr mnemonic ops with
  | some i => some (.instr i response)
  | none => (readPseudo mnemonic ops).map fun p => .pseudo p response

/-- A line of words: an `@` time, or a mnemonic with operands and perhaps `->` and a response (R88). -/
def readWords : List (List Char) → Option AsmLine
  | [] => some .blank
  | ('@' :: ns) :: [] => (readNat ns).map .time
  | m :: ws =>
    (readResponse (ws.dropWhile (· != "->".toList))).bind fun response =>
      (readOperands (ws.takeWhile (· != "->".toList))).bind fun ops => readOperation m ops response

/-- One line of R88. -/
def readLine (line : String) : Option AsmLine := readWords (splitWords [] (dropComment line.toList))

/-- The move of the environment that an `@target` line stands for in state `s` (R88): run a due pass, the lowest timer
first (R218 leaves the order open and admits this one), or advance to the target or the nearest deadline before it;
none when the target is reached and nothing is due. -/
def timeMove (target : Nat) (s : State) : Option Input :=
  match (List.range s.vct.length).find? fun t => isDue t s with
  | some t => some (.due t)
  | none =>
    if s.now < target then
      some (.advance ((s.vct.filterMap Vct.deadline).foldl min target - s.now))
    else none

end Sys2Proof.Machine
end

