-- ==== Sys2Proof/Safety.lean ====
section
/-! DEFINITION. What claims about the machine are stated in: the shape of a state, the invariants of
`spec/10_state.md` R35, the effect of deliveries on the Arbiter, and the events read back from the trace. The
predicates are decidable, so that a concrete state can be shown to meet them. -/

namespace Sys2Proof.Machine

/-! ### The shape of a state -/

/-- Every list of units has the length its configuration says, and every bank and timer the number of lines and alarms
(R23 to R30). -/
abbrev State.Shape (s : State) : Prop :=
  s.clc.length = s.cfg.nCLC ∧ s.srl.length = s.cfg.nSRL ∧ s.srb.length = s.cfg.nSRB
    ∧ s.srbx.length = s.cfg.nSRBX ∧ s.lines.length = s.cfg.nLINES ∧ s.vct.length = s.cfg.nVCT
    ∧ (∀ b < s.cfg.nSRB, (s.srbAt b).deliveredPerLine.length = (bankConfig s.cfg b).nOut)
    ∧ (∀ t < s.cfg.nVCT, (s.vctAt t).alarms.length = alarmCount s.cfg t)

/-- The state after a faulting command (R11, R230): the fault record, if it was none, and no response word. -/
def State.faulted (s : State) (r : FaultRecord) : State :=
  { s with fault := some (s.fault.getD r), resp := none }

/-! ### The configuration -/

/-- The entry `i` of a list that must have `n` good entries is missing, bad, or beyond the `n` there are. -/
def EntryBad {α : Type} (n : Nat) (xs : List α) (good : α → Prop) (i : Nat) : Prop :=
  (i < n ∨ i < xs.length) ∧ ¬ (i < n ∧ ∃ x ∈ xs[i]?, good x)

/-- The record is missing or violates its bound or R211. -/
def RecordBad (cfg : Config) : ConfigRecord → Prop
  | .count .clc => 65536 < cfg.nCLC
  | .count .srl => 65536 < cfg.nSRL
  | .count .srb => 65536 < cfg.nSRB
  | .count .srbx => 65536 < cfg.nSRBX
  | .count .vct => 65536 < cfg.nVCT
  | .count .arb => cfg.nLINES = 0 ∨ 65536 < cfg.nLINES
  | .count .vctAlarm => False
  | .sinkSRL r => EntryBad cfg.nSRL cfg.sinkSRL (fun sink => srlSinkOk cfg.nLINES sink = true) r
  | .bank b => EntryBad cfg.nSRB cfg.banks (fun bc => 1 ≤ bc.nOut ∧ bc.nOut ≤ 32) b
  | .sinkSRB b j => ∃ bc ∈ cfg.banks[b]?, EntryBad bc.nOut bc.sinks (fun sink => srbSinkOk cfg.nLINES sink = true) j
  | .router b e => ∃ bc ∈ cfg.banks[b]?, e < 32 ∧ bc.evMask.getLsbD e = true ∧ ¬ ∃ j ∈ bankRoute bc e, j < bc.nOut
  | .ext x => EntryBad cfg.nSRBX cfg.exts (fun xc => extOk cfg xc = true) x
  | .timer t => EntryBad cfg.nVCT cfg.timers (fun tc => tc.nAlarm ≤ 256) t
  | .route t .overflow => ∃ tc ∈ cfg.timers[t]?, routeOk cfg tc.overflowRoute = false
  | .route t (.alarm i) =>
    ∃ tc ∈ cfg.timers[t]?, EntryBad tc.nAlarm tc.alarmRoutes (fun route => routeOk cfg route = true) i
  | .driver id => 1 < ((allSinks cfg).filterMap sinkLine).count id

/-! ### The Arbiter -/

/-- Line `i` stands before line `j` in the order of R151: larger priority; then larger weight; then smaller id. -/
def standsBefore (s : State) (i j : Nat) : Bool :=
  decide ((s.lineAt j).priority.toNat < (s.lineAt i).priority.toNat
    ∨ ((s.lineAt i).priority = (s.lineAt j).priority
      ∧ ((s.lineAt j).nestWeight.toNat < (s.lineAt i).nestWeight.toNat
        ∨ ((s.lineAt i).nestWeight = (s.lineAt j).nestWeight ∧ i < j))))

/-- Line `i` may win class `k` (R150): asserted, of the class, and not filtered. -/
def competes (s : State) (k : IrqClass) (i : Nat) : Bool :=
  decide ((s.lineAt i).asserted = true ∧ ((s.lineAt i).isFastClass = true ↔ k = .fast)
    ∧ ∀ n ∈ (s.classAt k).maskBelowPriority, n.toNat < (s.lineAt i).priority.toNat)

/-- Line `i` competes in class `k` and stands before every other line that does (R151). -/
abbrev StandsFirst (s : State) (k : IrqClass) (i : Nat) : Prop :=
  i < s.cfg.nLINES ∧ competes s k i = true
    ∧ ∀ j < s.cfg.nLINES, competes s k j = true → j = i ∨ standsBefore s i j = true

/-- `w` is what R151 and R152 select in class `k`: none when no line competes, else the competing line that stands
before every other. -/
abbrev Wins (s : State) (k : IrqClass) (w : Option Nat) : Prop :=
  (w = none → ∀ i < s.cfg.nLINES, competes s k i = false) ∧ (w ≠ none → StandsFirst s k (w.getD s.cfg.nLINES))

/-- The class is arbitrated unless Locked (R35 (d)). -/
abbrev Settled (s : State) (k : IrqClass) : Prop :=
  (s.classAt k).lockedLineId = none → Wins s k (s.classAt k).selectedLineId

/-- The class record after its lines or filter were written: as before while Locked, else re-selected (R153, R156). -/
abbrev Rearbitrated (s t : State) (k : IrqClass) : Prop :=
  (t.classAt k).lockedLineId = (s.classAt k).lockedLineId
    ∧ (if (s.classAt k).lockedLineId = none then Wins t k (t.classAt k).selectedLineId
       else (t.classAt k).selectedLineId = (s.classAt k).selectedLineId)

/-- The output edge of a class between two states: none if `OUT[k]` is the same (R152). -/
def edgeBetween (s t : State) (k : IrqClass) : List Event := if t.out k = s.out k then [] else [.outEdge k (t.out k)]

/-! ### Deliveries -/

/-- What a delivery of `v` to a sink makes of Arbiter line `i` (R213): nothing unless the sink names the line. -/
def drive (nestEnabled : Bool) (i : Nat) (l : ArbLine) (d : Sink × Nat) : ArbLine :=
  match d.1 with
  | .ext _ => l
  | .arb id cls nest prio =>
    if id = i then
      { isFastClass := decide (cls = .fast),
        priority := if d.2 = 0 then l.priority else match prio with
          | .fromValue => BitVec.ofNat 8 (d.2 - 1)
          | .fixed p => p,
        nestWeight := if nestEnabled then nest else 0#8,
        asserted := decide (d.2 ≠ 0) }
    else l

/-- The sink is an Arbiter line (R210). -/
def sinkIsArb : Sink → Bool
  | .arb _ _ _ _ => true
  | .ext _ => false

/-- The record of a delivery (R212). -/
def Event.isDeliver : Event → Bool
  | .deliver _ _ => true
  | _ => false

/-- The record of a timer callback (R214). -/
def Event.isFire : Event → Bool
  | .fire _ _ => true
  | _ => false

/-- The events a step emitted: what stands in the trace beyond what stood there. -/
def newEvents (s t : State) : List Event := t.trace.drop s.trace.length

/-- The levels of the `OutEdge` records of a class, oldest first. -/
def edgesOf (k : IrqClass) (tr : List Event) : List Bool :=
  tr.filterMap fun e => match e with
    | .outEdge k' l => if k' = k then some l else none
    | _ => none

/-- The levels alternate, beginning with `b`. -/
def alternatesFrom : Bool → List Bool → Bool
  | _, [] => true
  | b, x :: xs => x == b && alternatesFrom (!b) xs

/-- The edges of class `k` emitted between two states alternate, and lead from the old output to the new one (R157). -/
abbrev EdgesLead (s t : State) (k : IrqClass) : Prop :=
  alternatesFrom (!s.out k) (edgesOf k (newEvents s t)) = true
    ∧ (edgesOf k (newEvents s t)).getLastD (s.out k) = t.out k

/-- The Arbiter and the trace after the deliveries `ds`, in order (R212, R213). -/
structure Delivered (ds : List (Sink × Nat)) (s t : State) : Prop where
  /-- The line table keeps its size. -/
  length : t.lines.length = s.lines.length
  /-- Each line is as the deliveries drove it. -/
  lines : ∀ i < s.lines.length, t.lineAt i = ds.foldl (drive s.cfg.nestEnabled i) (s.lineAt i)
  /-- The filters are as before. -/
  filters : ∀ k, (t.classAt k).maskBelowPriority = (s.classAt k).maskBelowPriority
  /-- If an Arbiter line was driven, each class is re-selected unless Locked, and its edges lead from the old output to
  the new one; otherwise it is as before, without an edge. -/
  classes : ∀ k, if ds.any (fun d => sinkIsArb d.1) then Rearbitrated s t k ∧ EdgesLead s t k
    else t.classAt k = s.classAt k ∧ edgesOf k (newEvents s t) = []
  /-- The trace grew. -/
  grows : s.trace <+: t.trace
  /-- The deliveries are on record, in order. -/
  delivers : (newEvents s t).filter Event.isDeliver = ds.map fun d => .deliver d.1 d.2
  /-- No timer callback ran. -/
  noFire : (newEvents s t).any Event.isFire = false

/-- The RequestLines, the banks and the extensions are as before. -/
abbrev KeepsUnits (s t : State) : Prop := t.srl = s.srl ∧ t.srb = s.srb ∧ t.srbx = s.srbx

/-- What no command but those of a ClockControl unit or a timer writes is as before. -/
def KeepsRest (s t : State) : Prop :=
  t.cfg = s.cfg ∧ t.clc = s.clc ∧ t.vct = s.vct ∧ t.fault = s.fault ∧ t.now = s.now ∧ t.inputs = s.inputs

/-- RequestLine `r` became `u` with its latch at `pending AND enabled`, and delivered exactly if that level flipped
(R111): the forwarded value is `1 + priority`, or 0. Every other RequestLine, bank and extension is as before. -/
def LineWritten (r : Nat) (pending enabled : Bool) (priority : Byte) (s t : State) : Prop :=
  t.srlAt r = ⟨pending, enabled, priority, pending && enabled⟩
    ∧ (∀ r', r' ≠ r → t.srlAt r' = s.srlAt r') ∧ t.srl.length = s.srl.length
    ∧ Delivered (if (s.srlAt r).deliveredState = (pending && enabled) then []
        else [(sinkOfSrl s.cfg r, if pending && enabled then 1 + priority.toNat else 0)]) s t
    ∧ t.srb = s.srb ∧ t.srbx = s.srbx ∧ KeepsRest s t

/-- Some event of the bank is active and routed to line `j` (R125). -/
abbrev LineActive (bc : BankConfig) (act : Word) (j : Nat) : Prop :=
  ∃ e, e < 32 ∧ bc.evMask.getLsbD e = true ∧ act.getLsbD e = true ∧ bankRoute bc e = some j

/-- Bank `b` holds the mask and the raw status given, its latches are the aggregates of its lines, and it delivered, in
ascending line order, exactly to the lines whose aggregate flipped (R125). Every other bank is as before. -/
def BankWritten (b : Nat) (mask rawStatus : Word) (s t : State) : Prop :=
  t.srbAt b = ⟨mask, rawStatus, (List.range (bankConfig s.cfg b).nOut).map fun j =>
      decide (LineActive (bankConfig s.cfg b) (rawStatus &&& mask) j)⟩
    ∧ (∀ b', b' ≠ b → t.srbAt b' = s.srbAt b') ∧ t.srb.length = s.srb.length
    ∧ Delivered ((List.range (bankConfig s.cfg b).nOut).filterMap fun j =>
        if decide (LineActive (bankConfig s.cfg b) (rawStatus &&& mask) j)
            = (s.srbAt b).deliveredPerLine[j]?.getD false then none
        else some (bankSink (bankConfig s.cfg b) j,
          if LineActive (bankConfig s.cfg b) (rawStatus &&& mask) j then 1 else 0)) s t

/-- Extension `x` became `u`, and its zero/nonzero transition, if any, was forwarded as its one parent bit (R135).
Every other extension and every RequestLine is as before. -/
def ExtensionWritten (x : Nat) (u : Srbx) (s t : State) : Prop :=
  let p := (extConfig s.cfg x).parent
  let m := (extConfig s.cfg x).parentEventMask
  let before := (s.srbxAt x).rawStatus &&& (s.srbxAt x).mask
  let after := u.rawStatus &&& u.mask
  t.srbxAt x = u ∧ (∀ x', x' ≠ x → t.srbxAt x' = s.srbxAt x') ∧ t.srbx.length = s.srbx.length
    ∧ (if before = 0#32 ∧ after ≠ 0#32 then BankWritten p (s.srbAt p).mask ((s.srbAt p).rawStatus ||| m) s t
       else if before ≠ 0#32 ∧ after = 0#32 then
         BankWritten p (s.srbAt p).mask ((s.srbAt p).rawStatus &&& ~~~m) s t
       else t.srb = s.srb ∧ t.lines = s.lines ∧ t.normal = s.normal ∧ t.fast = s.fast ∧ t.trace = s.trace)
    ∧ t.srl = s.srl ∧ KeepsRest s t

/-! ### The timer -/

/-- `cnt(t, now)` in closed form (R31, R175): an unwritten or zero frequency adds nothing. -/
def Vct.counterAt (T : Vct) (now : Nat) : Nat :=
  T.counterBase + if T.running then (now - T.baseTimestamp) * T.frequencyHz.getD 0 / 1000000000 else 0

/-- The timer runs at a nonzero frequency (R175, R178). -/
abbrev Vct.Counting (T : Vct) : Prop := T.running = true ∧ T.frequencyHz.getD 0 ≠ 0

/-- The modulus, or some unfired alarm's threshold, is reached at count `c`. -/
abbrev Vct.EventAt (T : Vct) (c : Nat) : Prop :=
  (∃ m ∈ T.overflowModulus, m ≤ c) ∨ (∃ a ∈ T.alarms, a.fired = false ∧ ∃ x ∈ a.threshold, x ≤ c)

/-- The timer's deadline is exact (R178): none while it does not count, else the first instant from `now` at which its
counter has reached the modulus or the threshold of an unfired alarm. -/
def Vct.ArmedExactly (T : Vct) (now : Nat) : Prop :=
  if T.Counting then ∃ d, T.deadline = some d ∧ now ≤ d ∧ T.EventAt (T.counterAt d)
      ∧ ∀ u, now ≤ u → u < d → ¬ T.EventAt (T.counterAt u)
  else T.deadline = none

/-- Every field `VCT.START` needs has been written (R183). -/
abbrev Vct.Written (T : Vct) : Prop :=
  T.frequencyHz ≠ none ∧ T.overflowModulus ≠ none ∧ ∀ a ∈ T.alarms, a.threshold ≠ none

/-- What R31 and R35 (g) say of every timer: its last rebase is not in the future, and it is written if it runs. -/
abbrev Vct.Ready (T : Vct) (now : Nat) : Prop := T.baseTimestamp ≤ now ∧ (T.running = true → T.Written)

/-- A timer of at most `10^9` Hz that counts has not counted past its modulus: no clock step passes the instant at which
it reaches it (R216), and its count grows by at most 1 a nanosecond (R275). -/
abbrev Vct.OnTime (T : Vct) (now : Nat) : Prop :=
  T.Counting → (∀ f ∈ T.frequencyHz, f ≤ 1000000000) → ∀ m ∈ T.overflowModulus, T.counterAt now ≤ m

/-- The timer runs at 0 Hz with its counter at its modulus, where no pass is due (R178; log 19). -/
abbrev Vct.RestsAtModulus (T : Vct) : Prop :=
  T.running = true ∧ ¬ T.Counting ∧ ∃ m ∈ T.overflowModulus, m ≤ T.counterBase

/-- The alarms reached at count `c`, by id, ascending (R179, R274): unfired, with a threshold at or below `c` and not
above the modulus. -/
def reachedAlarms (T : Vct) (c : Nat) : List Callback :=
  ((List.range T.alarms.length).filter fun i =>
    decide (∃ a ∈ T.alarms[i]?, a.fired = false ∧ ∃ x ∈ a.threshold, x ≤ c ∧ ∀ m ∈ T.overflowModulus, x ≤ m)).map .alarm

/-- The alarms of threshold 0, by id, ascending: what the pass re-run at the wrap fires (R187). -/
def wrapAlarms (alarms : List Alarm) : List Callback :=
  ((List.range alarms.length).filter fun i => decide (∃ a ∈ alarms[i]?, a.threshold = some 0)).map .alarm

/-- The callbacks of a scheduling pass at count `c`, in order (R187). -/
def expectedCallbacks (T : Vct) (c : Nat) : List Callback :=
  reachedAlarms T c ++ if ∃ m ∈ T.overflowModulus, m ≤ c then .overflow :: wrapAlarms T.alarms else []

/-- The alarms after a scheduling pass at count `c` (R187): those reached are fired; at an overflow exactly those of
threshold 0 are. -/
def alarmsAfterPass (T : Vct) (c : Nat) : List Alarm :=
  T.alarms.map fun a => ⟨a.threshold,
    if ∃ m ∈ T.overflowModulus, m ≤ c then decide (a.threshold = some 0)
    else decide (a.fired = true ∨ ∃ x ∈ a.threshold, x ≤ c)⟩

/-- The callbacks `ks` of timer `t`, performed in order (R214). -/
def fireAll (t : Nat) (ks : List Callback) (s : State) : State := ks.foldl (fun u k => fire t k u) s

/-- The `Fire` records of a trace (R214). -/
def firesOf (tr : List Event) : List Event := tr.filter Event.isFire

/-! ### The invariants of R35 -/

/-- R35 (a): a RequestLine's latch is `pending AND enabled`. -/
abbrev LatchesFollow (s : State) : Prop :=
  ∀ r < s.cfg.nSRL, (s.srlAt r).deliveredState = ((s.srlAt r).pending && (s.srlAt r).enabled)

/-- R35 (b): a bank line's latch is the OR of its active events. -/
abbrev BankLatchesFollow (s : State) : Prop :=
  ∀ b < s.cfg.nSRB, (s.srbAt b).deliveredPerLine = (List.range (bankConfig s.cfg b).nOut).map fun j =>
    decide (LineActive (bankConfig s.cfg b) ((s.srbAt b).rawStatus &&& (s.srbAt b).mask) j)

/-- R25, R26: bits of events that do not exist are 0. -/
abbrev NoStrayEvents (s : State) : Prop :=
  (∀ b < s.cfg.nSRB, (s.srbAt b).mask &&& (bankConfig s.cfg b).evMask = (s.srbAt b).mask
      ∧ (s.srbAt b).rawStatus &&& (bankConfig s.cfg b).evMask = (s.srbAt b).rawStatus)
    ∧ ∀ x < s.cfg.nSRBX, (s.srbxAt x).mask &&& (extConfig s.cfg x).xevMask = (s.srbxAt x).mask
      ∧ (s.srbxAt x).rawStatus &&& (extConfig s.cfg x).xevMask = (s.srbxAt x).rawStatus

/-- R35 (c) and (d), R27: at most one of locked and selected; the selection is the winner; a locked line exists. -/
abbrev ClassOk (s : State) (k : IrqClass) : Prop :=
  ((s.classAt k).lockedLineId = none ∨ (s.classAt k).selectedLineId = none) ∧ Settled s k
    ∧ ∀ i ∈ (s.classAt k).lockedLineId, i < s.cfg.nLINES

/-- R27: on a flat Arbiter every weight is 0. -/
abbrev FlatWeights (s : State) : Prop :=
  s.cfg.nestEnabled = false → ∀ i < s.cfg.nLINES, (s.lineAt i).nestWeight = 0#8

/-- The timer fields are in the ranges of R30, and the counter base does not exceed the modulus (0 before it is
written). -/
abbrev Vct.InRange (T : Vct) : Prop :=
  (∀ f ∈ T.frequencyHz, f < timerBound) ∧ (∀ m ∈ T.overflowModulus, 0 < m ∧ m < timerBound)
    ∧ (∀ a ∈ T.alarms, ∀ x ∈ a.threshold, x < timerBound) ∧ T.counterBase ≤ T.overflowModulus.getD 0

/-- R35 (f), (g) and R30: the timer is armed for what `SCHEDULE` would arm now, its last rebase is not in the future, it
is written if it runs, and its fields are in range. -/
abbrev Vct.Ok (T : Vct) (now : Nat) : Prop :=
  T.deadline = T.armAt now ∧ T.baseTimestamp ≤ now ∧ (T.running = true → T.written = true) ∧ T.InRange

/-- The invariant of the machine: a well-formed configuration, the shape, R35 (a) to (d), (f), (g), the reserved bits
and R231 (`FAULT` never holds the code `CFG`). R35 (e) follows from it where no timer is due (for timers
that count; log 19). -/
structure Inv (s : State) : Prop where
  config : configOk s.cfg = true
  shape : s.Shape
  latches : LatchesFollow s
  bankLatches : BankLatchesFollow s
  noStray : NoStrayEvents s
  normalClass : ClassOk s .normal
  fastClass : ClassOk s .fast
  flatWeights : FlatWeights s
  timers : ∀ t < s.cfg.nVCT, (s.vctAt t).Ok s.now
  noConfigFault : ∀ r ∈ s.fault, r.code ≠ 1

/-! ### The trace -/

/-- The `Deliver` records of a sink, oldest first: whether the value was nonzero. -/
def deliveriesTo (sink : Sink) (tr : List Event) : List Bool :=
  tr.filterMap fun e => match e with
    | .deliver sk v => if sk = sink then some (decide (v ≠ 0)) else none
    | _ => none

/-- A history of levels alternates 1, 0, 1, ... and ends at the level given, 0 before the first. -/
abbrev HistoryOk (levels : List Bool) (level : Bool) : Prop :=
  alternatesFrom true levels = true ∧ levels.getLastD false = level

/-- R157: the output edges of each class alternate, and the last is the output. -/
abbrev EdgesOk (s : State) : Prop :=
  HistoryOk (edgesOf .normal s.trace) (s.out .normal) ∧ HistoryOk (edgesOf .fast s.trace) (s.out .fast)

/-- R116, R132: the deliveries of a RequestLine or a bank line to a sink no other source shares alternate, and the last
is the source's latch. -/
abbrev DeliveriesOk (s : State) : Prop :=
  (∀ r < s.cfg.nSRL, (allSinks s.cfg).count (sinkOfSrl s.cfg r) = 1 →
      HistoryOk (deliveriesTo (sinkOfSrl s.cfg r) s.trace) (s.srlAt r).deliveredState)
    ∧ ∀ b < s.cfg.nSRB, ∀ j < (bankConfig s.cfg b).nOut,
        (allSinks s.cfg).count (bankSink (bankConfig s.cfg b) j) = 1 →
          HistoryOk (deliveriesTo (bankSink (bankConfig s.cfg b) j) s.trace)
            ((s.srbAt b).deliveredPerLine[j]?.getD false)

/-! ### Counter cycles (R190 (c)) -/

/-- What happens to alarm `i` of timer `t` in a run: a counter cycle opens, or the alarm fires. -/
inductive CycleMark where
  | opens
  | fires
  deriving DecidableEq, Repr

/-- The next move is a command that opens a cycle of the alarm: `VCT.RESET` of its timer, or a re-arming `VCT.SETALARM`,
one that leaves the alarm unfired (R186, R190 (c)). -/
def opensCycle (t i : Nat) (s : State) : Bool :=
  match s.inputs.head? with
  | some (.command cmd data) =>
    match decode cmd data with
    | .ok (.vctReset t') => decide (t' = t)
    | .ok (.vctSetalarm t' i' ticks) => decide (t' = t ∧ i' = i ∧ (s.vctAt t).counterAt s.now < ticks)
    | _ => false
  | _ => false

/-- The mark an event makes: an overflow opens a cycle. -/
def Event.cycleMark (t i : Nat) : Event → Option CycleMark
  | .fire t' .overflow => if t' = t then some .opens else none
  | .fire t' (.alarm j) => if t' = t ∧ j = i then some .fires else none
  | _ => none

/-- The marks of the first `n` steps of a run, in order. -/
def cycleMarks (t i : Nat) : Nat → State → List CycleMark
  | 0, _ => []
  | n + 1, s =>
    match step s with
    | .next u => (if opensCycle t i s then [.opens] else []) ++ (newEvents s u).filterMap (Event.cycleMark t i)
        ++ cycleMarks t i n u
    | _ => []

/-- The alarm fires at most once before each opening of a cycle, and not at all before the first if it is `spent`. -/
def firesOncePerCycle : Bool → List CycleMark → Bool
  | _, [] => true
  | _, .opens :: ms => firesOncePerCycle false ms
  | spent, .fires :: ms => !spent && firesOncePerCycle true ms

/-! ### Commands -/

/-- `CMD` of the row with the given `match` value, for a `SUB` and an `IDX` (R81, R84). -/
def cmdOf (pattern sub idx : Nat) : Word := BitVec.ofNat 32 (pattern + sub * 2 ^ 16 + idx)

/-- `SUB` of a class (R81). -/
def subOf (k : IrqClass) : Nat := if k = .fast then 1 else 0

/-- The pure reads of R65. -/
def isPureRead : Instr → Bool
  | .clcGet _ | .clcIsen _ | .clcGetpre _ | .srlGet _ | .srbGetmask _ | .srbGetraw _ | .srbGetmis _ | .srbxGetmask _
  | .srbxGetraw _ | .srbxGetmis _ | .vctGetcnt _ | .vctNext _ => true
  | _ => false

/-- The idempotent writes of R65. -/
def isIdempotentWrite : Instr → Bool
  | .clcInit _ | .clcSet _ _ | .srlSet _ _ | .srlAssert _ | .srlClear _ | .srbSetmask _ _ | .srbSetraw _ _
  | .srbClearraw _ _ | .srbxSetmask _ _ | .srbxSetraw _ _ | .srbxClearraw _ _ | .arbSetlevel _ _ _ _ _
  | .arbSetmask _ _ _ | .vctStart _ | .vctStop _ => true
  | _ => false

/-- A ClockControl operation. -/
def isClc : Instr → Bool
  | .clcInit _ | .clcSet _ _ | .clcGet _ | .clcIsen _ | .clcGetpre _ => true
  | _ => false

/-- The index an operation checks first, and its space (R61, R233). -/
def indexOf : Instr → Option (IndexSpace × Nat)
  | .clcInit c | .clcSet c _ | .clcGet c | .clcIsen c | .clcGetpre c => some (.clc, c)
  | .srlSet r _ | .srlGet r | .srlAssert r | .srlClear r => some (.srl, r)
  | .srbSetmask b _ | .srbSetraw b _ | .srbClearraw b _ | .srbGetmask b | .srbGetraw b | .srbGetmis b => some (.srb, b)
  | .srbxSetmask x _ | .srbxSetraw x _ | .srbxClearraw x _ | .srbxGetmask x | .srbxGetraw x | .srbxGetmis x =>
    some (.srbx, x)
  | .arbSetlevel id _ _ _ _ => some (.arb, id)
  | .arbTake _ | .arbAck _ | .arbSetmask _ _ _ => none
  | .vctStart t | .vctStop t | .vctReset t | .vctSetfreq t _ | .vctSetovf t _ | .vctSetalarm t _ _ | .vctTick t
  | .vctGetcnt t | .vctNext t => some (.vct, t)

/-- The size of the index space an operation checks first, as R60 lists them. -/
def spaceSize (cfg : Config) : IndexSpace → Nat
  | .clc => cfg.nCLC
  | .srl => cfg.nSRL
  | .srb => cfg.nSRB
  | .srbx => cfg.nSRBX
  | .arb => cfg.nLINES
  | .vct => cfg.nVCT
  | .vctAlarm => 256

end Sys2Proof.Machine
end

