-- ==== Sys2Proof/Certificates/Slice0/Obligations.lean ====
section
/-! DEFINITION. The statements about the machine, for the provers. Each follows the rules its docstring names; the
vocabulary (`Shape`, `Wins`, `Delivered`, `LineWritten`, `BankWritten`, `ArmedExactly`, ...) is `Safety.lean`'s.
A state in a statement is any state, reachable or not, unless a hypothesis says otherwise. -/

section Statements

open Sys2Proof Sys2Proof.Machine

/-! ### The command port -/

/-- R81, R82, R84: decoding the command of a well-formed instruction gives the instruction back. -/
def Obligations.DecodeInvertsEncode : Prop :=
  ∀ i : Instr, i.wf = true → decode (encode i).1 (encode i).2 = .ok i

/-- R81: every command word is `K ++ OP ++ SUB ++ IDX`, that is the weighted sum of its fields; and the four fields of
a word built from fields are those fields. -/
def Obligations.CommandWordIsItsFields : Prop :=
  (∀ cmd : Word, cmd = cmdWord (cmdKind cmd) (cmdOp cmd) (cmdSub cmd) (cmdIdx cmd)
      ∧ cmd.toNat = cmdKind cmd * 2 ^ 28 + cmdOp cmd * 2 ^ 24 + cmdSub cmd * 2 ^ 16 + cmdIdx cmd)
    ∧ ∀ k op sub idx : Nat, k < 16 → op < 16 → sub < 256 → idx < 65536 →
        cmdKind (cmdWord k op sub idx) = k ∧ cmdOp (cmdWord k op sub idx) = op
          ∧ cmdSub (cmdWord k op sub idx) = sub ∧ cmdIdx (cmdWord k op sub idx) = idx

/-- R84, R85: 34 rows, no two with the same `K` and `OP`; a command word decodes exactly if some row selects it, to a
well-formed instruction of that row and no other; otherwise it is illegal. -/
def Obligations.CommandWordIsOneRowOrIllegal : Prop :=
  opcodeRows.length = 34 ∧ opcodeRows.Pairwise (fun r r' => r.pattern.toNat / 2 ^ 24 ≠ r'.pattern.toNat / 2 ^ 24)
    ∧ ∀ (cmd : Word) (data : DoubleWord),
      (∀ i, decode cmd data = .ok i → i.wf = true
          ∧ ∀ row ∈ opcodeRows, (cmd &&& row.mask = row.pattern ↔ row.mnemonic = i.mnemonic))
        ∧ ((∃ e, decode cmd data = .error e) ↔ ∀ row ∈ opcodeRows, cmd &&& row.mask ≠ row.pattern)

/-- R82: the bits of `DATA` that the table does not list for an operation have no effect. -/
def Obligations.UnlistedDataBitsIgnored : Prop :=
  ∀ row ∈ opcodeRows, ∀ (cmd : Word) (d d' : DoubleWord), cmd &&& row.mask = row.pattern →
    d &&& row.usedData = d' &&& row.usedData → decode cmd d = decode cmd d'

/-- R84, `95_test_vectors.md`: a command of each family, written out. -/
def Obligations.SpecWordsDecode : Prop :=
  decode 0x01000000#32 0x201#64 = .ok (.clcSet 0 0x201#32)
    ∧ decode 0x11000000#32 0x9005#64 = .ok (.srlSet 0 0x9005#16)
    ∧ decode 0x21000000#32 0x3#64 = .ok (.srbSetmask 0 0x3#32)
    ∧ decode 0x32000000#32 0x1#64 = .ok (.srbxSetraw 0 0x1#32)
    ∧ decode 0x41000001#32 0x10003#64 = .ok (.arbSetlevel 1 .normal 3#8 0#8 true)
    ∧ decode 0x56000000#32 0x1F4#64 = .ok (.vctSetalarm 0 0 500)

/-- R85, R232, R233: an illegal command word stops the machine with code 6 and the word, and changes nothing else. -/
def Obligations.IllegalWordFaults : Prop :=
  ∀ (s : State) (cmd : Word) (data : DoubleWord) (rest : List Input),
    s.fault = none → configOk s.cfg = true → (∀ T ∈ s.vct, T.deadline ≠ some s.now) →
    s.inputs = .command cmd data :: rest → (∀ row ∈ opcodeRows, cmd &&& row.mask ≠ row.pattern) →
      step s = .next { s with inputs := rest, resp := none, fault := some (.illegalCmd cmd) }
        ∧ (FaultRecord.illegalCmd cmd).code = 6

/-! ### Steps of the whole machine -/

/-- R217, R219: with no fault and no pass due, a step whose next input is a command that decodes takes the input off
and executes the decoded instruction, which is well-formed. -/
def Obligations.StepRunsDecodedCommand : Prop :=
  ∀ (s : State) (cmd : Word) (data : DoubleWord) (rest : List Input) (i : Instr),
    s.fault = none → configOk s.cfg = true → (∀ T ∈ s.vct, T.deadline ≠ some s.now) →
    s.inputs = .command cmd data :: rest → decode cmd data = .ok i →
      i.wf = true ∧ step s = exec i { s with inputs := rest }

/-- R219, R230: a machine whose fault record is set takes no step, whatever is offered. -/
def Obligations.StoppedMachineTakesNoStep : Prop :=
  ∀ (s : State) (r : FaultRecord), s.fault = some r → step s = .fault (.stopped r)

/-- R216: `ADVANCE(d)`, `d > 0`, is a step exactly if it passes no armed deadline; it moves `NOW` and nothing else (the
input is taken off, log 3). -/
def Obligations.ClockStepMovesOnlyTime : Prop :=
  ∀ (s : State) (d : Nat) (rest : List Input), s.fault = none → configOk s.cfg = true →
    s.inputs = .advance d :: rest →
      ((0 < d ∧ ∀ T ∈ s.vct, ∀ x, T.deadline = some x → s.now + d ≤ x) →
          step s = .next { s with now := s.now + d, inputs := rest })
        ∧ (¬ (0 < d ∧ ∀ T ∈ s.vct, ∀ x, T.deadline = some x → s.now + d ≤ x) →
          step s = .refused .advanceNotEnabled)

/-- R217: `DUE(t)` is a step exactly if timer `t` is armed for this instant; it is the pass of `VCT.TICK t` (without a
response word, log 7). While some timer is due, commands and clock steps are refused. -/
def Obligations.DuePassRunsFirst : Prop :=
  ∀ (s : State) (t : Nat) (rest : List Input), s.fault = none → configOk s.cfg = true → s.Shape →
    ((t < s.cfg.nVCT ∧ (s.vctAt t).deadline = some s.now) →
        (s.inputs = .due t :: rest → ∃ u, exec (.vctTick t) { s with inputs := rest } = .next u
            ∧ step s = .next { u with resp := s.resp })
          ∧ (∀ cmd data, s.inputs = .command cmd data :: rest → step s = .refused .commandWhileDue)
          ∧ ∀ d, s.inputs = .advance d :: rest → step s = .refused .advanceNotEnabled)
      ∧ (¬ (t < s.cfg.nVCT ∧ (s.vctAt t).deadline = some s.now) → s.inputs = .due t :: rest →
        step s = .refused .passNotDue)

/-- R215: `NOW` is 0 at reset and never decreases; only a clock step changes it. -/
def Obligations.TimeMovesOnlyByClockSteps : Prop :=
  (∀ cfg, (State.resetOf cfg).now = 0)
    ∧ ∀ s t : State, step s = .next t →
      s.now ≤ t.now ∧ (t.now = s.now ∨ ∃ d, s.inputs.head? = some (.advance d) ∧ t.now = s.now + d)

/-- R5, R20: no step changes the configuration. -/
def Obligations.ConfigurationNeverChanges : Prop :=
  ∀ s t : State, step s = .next t → t.cfg = s.cfg

/-- R68: the events of earlier steps precede those of later ones and are never withdrawn; a clock step has none (R216).
-/
def Obligations.EventsAreOnlyAppended : Prop :=
  ∀ s t : State, step s = .next t → s.trace <+: t.trace
    ∧ (∀ d, s.inputs.head? = some (.advance d) → t.trace = s.trace)

/-- R12, R245: every command, in every state, ends in a next state: none blocks, none is restricted. Two parts of this
are the model's choice: a faulting command ends in a next state too, which holds the fault record (log 6, DEDUCED), and
`exec` answers in every state, also in a stopped one, in which R230 has the command refused: `step` refuses it (log 23,
DESIGN CHOICE). -/
def Obligations.EveryCommandCompletes : Prop :=
  ∀ (i : Instr) (s : State), ∃ t, exec i s = .next t

/-- R230: a command that faults (it sets the fault record of a machine that had none) changes the fault record and
leaves no response word; every other field, the trace among them, is as before. A fault record never changes, and the
machine then takes no step. -/
def Obligations.FaultingCommandChangesNothingElse : Prop :=
  ∀ (i : Instr) (s t : State), exec i s = .next t →
    (s.fault = none → t.fault ≠ none → ∃ r, t = { s with fault := some r, resp := none } ∧ step t = .fault (.stopped r))
      ∧ ∀ r, s.fault = some r → t.fault = some r

/-- R61: an operation whose index lies outside its space faults with `PRG_ID`, the space and the index, for every such
index (no wrap-around, no mirror); so does `VCT.SETALARM` with an alarm id outside its timer's. -/
def Obligations.OutOfRangeIndexFaults : Prop :=
  (∀ (i : Instr) (s : State) (space : IndexSpace) (n : Nat), indexOf i = some (space, n) → spaceSize s.cfg space ≤ n →
      exec i s = .next (s.faulted (.prgId space n)))
    ∧ (∀ (s : State) (t alarm ticks : Nat), t < s.cfg.nVCT → alarmCount s.cfg t ≤ alarm →
      exec (.vctSetalarm t alarm ticks) s = .next (s.faulted (.prgId .vctAlarm alarm)))
    ∧ ∀ (space : IndexSpace) (n : Nat), (FaultRecord.prgId space n).code = 2

/-! ### Reset -/

/-- R36, R231, R260: construction answers a machine exactly for a well-formed configuration; every unit of it holds the
values of the table of R36, `FAULT` is none and `NOW` is 0; otherwise the error is `CFG`, code 1, which names a missing
or bad record (R232; which one of several, log 24). The ClockControl value rests on the bit positions of R100 (log 9). The model's own fields: no response word, no
event, no input (log 3, 7, 8). -/
def Obligations.ConstructionGivesResetState : Prop :=
  ∀ cfg : Config,
    (configOk cfg = false →
        ∃ bad, construct cfg = .error (.cfg bad) ∧ RecordBad cfg bad ∧ (FaultRecord.cfg bad).code = 1)
      ∧ (configOk cfg = true → ∃ s, construct cfg = .ok s ∧ s.cfg = cfg ∧ s.Shape
        ∧ (∀ c < cfg.nCLC, s.clcAt c = ⟨0x00000103#32⟩)
        ∧ (∀ r < cfg.nSRL, s.srlAt r = ⟨false, false, 0#8, false⟩)
        ∧ (∀ b < cfg.nSRB, s.srbAt b = ⟨0#32, 0#32, List.replicate (bankConfig cfg b).nOut false⟩)
        ∧ (∀ x < cfg.nSRBX, s.srbxAt x = ⟨0#32, 0#32⟩)
        ∧ (∀ i < cfg.nLINES, s.lineAt i = ⟨false, 0#8, 0#8, false⟩)
        ∧ (∀ k, s.classAt k = ⟨none, none, none⟩)
        ∧ (∀ t < cfg.nVCT,
          s.vctAt t = ⟨none, 0, 0, none, List.replicate (alarmCount cfg t) ⟨none, false⟩, false, none⟩)
        ∧ s.fault = none ∧ s.now = 0 ∧ s.resp = none ∧ s.trace = [] ∧ s.inputs = [])

/-- R261: reset produces no event; the outputs are 0, every delivered latch is 0, every timer is stopped and disarmed;
and with no input the machine does nothing on its own. -/
def Obligations.ResetIsQuiet : Prop :=
  ∀ cfg : Config, configOk cfg = true → (State.resetOf cfg).trace = []
    ∧ (∀ k, (State.resetOf cfg).out k = false)
    ∧ (∀ u ∈ (State.resetOf cfg).srl, u.deliveredState = false)
    ∧ (∀ u ∈ (State.resetOf cfg).srb, ∀ l ∈ u.deliveredPerLine, l = false)
    ∧ (∀ T ∈ (State.resetOf cfg).vct, T.running = false ∧ T.deadline = none)
    ∧ step (State.resetOf cfg) = .refused .noInput

/-! ### ClockControl -/

/-- R101: `CLC.INIT` stores the reset pattern, disable request and status set and prescaler 1, and nothing else. The bit
positions are R100's (log 9). -/
def Obligations.ClcInitStoresResetPattern : Prop :=
  ∀ (s : State) (c : Nat) (data : DoubleWord), c < 65536 →
    decode (cmdOf 0x00000000 0 c) data = .ok (.clcInit c)
      ∧ exec (.clcInit c) s = .next (if c < s.cfg.nCLC then
          { s with clc := s.clc.set c ⟨0x00000103#32⟩, resp := some 0#64 } else s.faulted (.prgId .clc c))

/-- R102: `CLC.SET` stores the value with bit 1, the disable status, made equal to bit 0, the disable request; every
other bit is stored as written, and nothing else changes. The bit positions are R100's (log 9). -/
def Obligations.ClcSetStatusFollowsRequest : Prop :=
  ∀ (s : State) (c : Nat) (data : DoubleWord), c < 65536 →
    decode (cmdOf 0x01000000 0 c) data = .ok (.clcSet c (data.extractLsb' 0 32))
      ∧ ∃ v : Word, (∀ j < 32, v.getLsbD j = data.getLsbD (if j = 1 then 0 else j))
        ∧ exec (.clcSet c (data.extractLsb' 0 32)) s = .next (if c < s.cfg.nCLC then
          { s with clc := s.clc.set c ⟨v⟩, resp := some 0#64 } else s.faulted (.prgId .clc c))

/-- R103, R104, R105: the three reads answer the raw value, whether the disable request is clear, and the prescaler;
they change nothing but the response word. The bit positions are R100's (log 9). -/
def Obligations.ClcReadsAnswerFields : Prop :=
  ∀ (s : State) (c : Nat) (data : DoubleWord), c < 65536 →
    (decode (cmdOf 0x02000000 0 c) data = .ok (.clcGet c)
        ∧ exec (.clcGet c) s = .next (if c < s.cfg.nCLC then
          { s with resp := some (BitVec.ofNat 64 (s.clcAt c).value.toNat) } else s.faulted (.prgId .clc c)))
      ∧ (decode (cmdOf 0x03000000 0 c) data = .ok (.clcIsen c)
        ∧ exec (.clcIsen c) s = .next (if c < s.cfg.nCLC then
          { s with resp := some (if (s.clcAt c).value.toNat % 2 = 0 then 1#64 else 0#64) }
          else s.faulted (.prgId .clc c)))
      ∧ (decode (cmdOf 0x04000000 0 c) data = .ok (.clcGetpre c)
        ∧ exec (.clcGetpre c) s = .next (if c < s.cfg.nCLC then
          { s with resp := some (BitVec.ofNat 64 ((s.clcAt c).value.toNat / 2 ^ 8 % 2 ^ 8)) }
          else s.faulted (.prgId .clc c)))

/-- R250, R3: no other unit reads ClockControl state. With other ClockControl registers, an operation of another kind
does the same to everything else; and a ClockControl operation changes only the ClockControl units, the response word
and the fault record. -/
def Obligations.ClockControlGatesNothing : Prop :=
  ∀ (i : Instr) (s t : State), exec i s = .next t →
    (isClc i = false → ∀ clc : List Clc, exec i { s with clc := clc } = .next { t with clc := clc })
      ∧ (isClc i = true → t = { s with clc := t.clc, resp := t.resp, fault := t.fault })

/-! ### RequestLine -/

/-- R111, R112: `SRL.SET` stores priority, enable and request flag, `SETR` alone or `CLRR` alone folded into the flag;
the latch becomes `pending AND enabled`, and exactly a flip of it is delivered, as `1 + priority` or 0. The bit
positions are R110's (log 10). -/
def Obligations.SrlSetFoldsAndDelivers : Prop :=
  ∀ (s : State) (r : Nat) (data : DoubleWord), s.Shape → r < 65536 →
    decode (cmdOf 0x11000000 0 r) data = .ok (.srlSet r (data.extractLsb' 0 16))
      ∧ ∃ t, exec (.srlSet r (data.extractLsb' 0 16)) s = .next t
        ∧ (r < s.cfg.nSRL → t.resp = some 0#64 ∧ LineWritten r
            (if data.getLsbD 15 = true ∧ data.getLsbD 14 = false then true
              else if data.getLsbD 14 = true ∧ data.getLsbD 15 = false then false else data.getLsbD 13)
            (data.getLsbD 12) (data.extractLsb' 0 8) s t)
        ∧ (s.cfg.nSRL ≤ r → t = s.faulted (.prgId .srl r))

/-- R111, R114, R115: `SRL.ASSERT` and `SRL.CLEAR` set and clear the request flag, keep the enable and the priority, and
deliver exactly a flip of `pending AND enabled`. -/
def Obligations.SrlAssertAndClearLatch : Prop :=
  ∀ (s : State) (r : Nat) (data : DoubleWord), s.Shape → r < 65536 →
    (decode (cmdOf 0x13000000 0 r) data = .ok (.srlAssert r)
        ∧ ∃ t, exec (.srlAssert r) s = .next t
          ∧ (r < s.cfg.nSRL → t.resp = some 0#64
            ∧ LineWritten r true (s.srlAt r).enabled (s.srlAt r).priority s t)
          ∧ (s.cfg.nSRL ≤ r → t = s.faulted (.prgId .srl r)))
      ∧ (decode (cmdOf 0x14000000 0 r) data = .ok (.srlClear r)
        ∧ ∃ t, exec (.srlClear r) s = .next t
          ∧ (r < s.cfg.nSRL → t.resp = some 0#64
            ∧ LineWritten r false (s.srlAt r).enabled (s.srlAt r).priority s t)
          ∧ (s.cfg.nSRL ≤ r → t = s.faulted (.prgId .srl r)))

/-- R113: `SRL.GET` answers `priority + enabled * 2^12 + pending * 2^13` and changes nothing but the response word. The
bit positions are R110's (log 10). -/
def Obligations.SrlGetAnswersFields : Prop :=
  ∀ (s : State) (r : Nat) (data : DoubleWord), r < 65536 →
    decode (cmdOf 0x12000000 0 r) data = .ok (.srlGet r)
      ∧ exec (.srlGet r) s = .next (if r < s.cfg.nSRL then
          { s with resp := some (BitVec.ofNat 64 ((s.srlAt r).priority.toNat
              + (if (s.srlAt r).enabled then 2 ^ 12 else 0) + (if (s.srlAt r).pending then 2 ^ 13 else 0))) }
          else s.faulted (.prgId .srl r))

/-- R270: changing the priority of a delivered line by `SRL.SET` with `pending AND enabled` kept at 1 (here `SETR` and
`EN` written) delivers nothing: only that RequestLine's priority and the response word change, so the Arbiter's line
keeps the old priority. The bit positions are R110's (log 10). -/
def Obligations.SrlPriorityChangeNotForwarded : Prop :=
  ∀ (s : State) (r : Nat) (p : Byte), s.Shape → r < s.cfg.nSRL →
    (s.srlAt r).pending = true → (s.srlAt r).enabled = true → (s.srlAt r).deliveredState = true →
      exec (.srlSet r (0x90#8 ++ p)) s
        = .next { s with srl := s.srl.set r ⟨true, true, p, true⟩, resp := some 0#64 }

/-! ### RequestBank and RequestBankExtension -/

/-- R125 to R128: `SRB.SETMASK` replaces the mask, `SRB.SETRAW` ORs events in (both within `EVMASK`), `SRB.CLEARRAW`
ANDs events out; the latches become the ORs of the active events of their lines, and exactly the flips are delivered, in
ascending line order. -/
def Obligations.SrbWritesUpdateLines : Prop :=
  ∀ (s : State) (b : Nat) (data : DoubleWord), s.Shape → b < 65536 →
    (decode (cmdOf 0x21000000 0 b) data = .ok (.srbSetmask b (data.extractLsb' 0 32))
        ∧ ∃ t, exec (.srbSetmask b (data.extractLsb' 0 32)) s = .next t
          ∧ (b < s.cfg.nSRB → BankWritten b (data.extractLsb' 0 32 &&& (bankConfig s.cfg b).evMask)
              (s.srbAt b).rawStatus s t ∧ t.srl = s.srl ∧ t.srbx = s.srbx ∧ KeepsRest s t ∧ t.resp = some 0#64)
          ∧ (s.cfg.nSRB ≤ b → t = s.faulted (.prgId .srb b)))
      ∧ (decode (cmdOf 0x22000000 0 b) data = .ok (.srbSetraw b (data.extractLsb' 0 32))
        ∧ ∃ t, exec (.srbSetraw b (data.extractLsb' 0 32)) s = .next t
          ∧ (b < s.cfg.nSRB → BankWritten b (s.srbAt b).mask
              ((s.srbAt b).rawStatus ||| (data.extractLsb' 0 32 &&& (bankConfig s.cfg b).evMask)) s t
              ∧ t.srl = s.srl ∧ t.srbx = s.srbx ∧ KeepsRest s t ∧ t.resp = some 0#64)
          ∧ (s.cfg.nSRB ≤ b → t = s.faulted (.prgId .srb b)))
      ∧ (decode (cmdOf 0x23000000 0 b) data = .ok (.srbClearraw b (data.extractLsb' 0 32))
        ∧ ∃ t, exec (.srbClearraw b (data.extractLsb' 0 32)) s = .next t
          ∧ (b < s.cfg.nSRB → BankWritten b (s.srbAt b).mask
              ((s.srbAt b).rawStatus &&& ~~~(data.extractLsb' 0 32)) s t
              ∧ t.srl = s.srl ∧ t.srbx = s.srbx ∧ KeepsRest s t ∧ t.resp = some 0#64)
          ∧ (s.cfg.nSRB ≤ b → t = s.faulted (.prgId .srb b)))

/-- R129, R130, R131: the reads of a bank answer the mask, the raw status and their AND; they change nothing but the
response word. -/
def Obligations.SrbReadsAnswerFields : Prop :=
  ∀ (s : State) (b : Nat) (data : DoubleWord), b < 65536 →
    (decode (cmdOf 0x24000000 0 b) data = .ok (.srbGetmask b)
        ∧ exec (.srbGetmask b) s = .next (if b < s.cfg.nSRB then
          { s with resp := some (BitVec.ofNat 64 (s.srbAt b).mask.toNat) } else s.faulted (.prgId .srb b)))
      ∧ (decode (cmdOf 0x25000000 0 b) data = .ok (.srbGetraw b)
        ∧ exec (.srbGetraw b) s = .next (if b < s.cfg.nSRB then
          { s with resp := some (BitVec.ofNat 64 (s.srbAt b).rawStatus.toNat) } else s.faulted (.prgId .srb b)))
      ∧ (decode (cmdOf 0x26000000 0 b) data = .ok (.srbGetmis b)
        ∧ exec (.srbGetmis b) s = .next (if b < s.cfg.nSRB then
          { s with resp := some (BitVec.ofNat 64 ((s.srbAt b).rawStatus &&& (s.srbAt b).mask).toNat) }
          else s.faulted (.prgId .srb b)))

/-- R135 to R138: `SRBX.SETMASK`, `SRBX.SETRAW` and `SRBX.CLEARRAW` change the extension's record (the first two within
`XEVMASK`); exactly a zero/nonzero transition of `rawStatus AND mask` sets or clears the parent bit, with all that the
parent's update delivers. -/
def Obligations.SrbxWritesForwardAggregate : Prop :=
  ∀ (s : State) (x : Nat) (data : DoubleWord), configOk s.cfg = true → s.Shape → x < 65536 →
    (decode (cmdOf 0x31000000 0 x) data = .ok (.srbxSetmask x (data.extractLsb' 0 32))
        ∧ ∃ t, exec (.srbxSetmask x (data.extractLsb' 0 32)) s = .next t
          ∧ (x < s.cfg.nSRBX → t.resp = some 0#64 ∧ ExtensionWritten x
              ⟨(s.srbxAt x).rawStatus, data.extractLsb' 0 32 &&& (extConfig s.cfg x).xevMask⟩ s t)
          ∧ (s.cfg.nSRBX ≤ x → t = s.faulted (.prgId .srbx x)))
      ∧ (decode (cmdOf 0x32000000 0 x) data = .ok (.srbxSetraw x (data.extractLsb' 0 32))
        ∧ ∃ t, exec (.srbxSetraw x (data.extractLsb' 0 32)) s = .next t
          ∧ (x < s.cfg.nSRBX → t.resp = some 0#64 ∧ ExtensionWritten x
              ⟨(s.srbxAt x).rawStatus ||| (data.extractLsb' 0 32 &&& (extConfig s.cfg x).xevMask),
                (s.srbxAt x).mask⟩ s t)
          ∧ (s.cfg.nSRBX ≤ x → t = s.faulted (.prgId .srbx x)))
      ∧ (decode (cmdOf 0x33000000 0 x) data = .ok (.srbxClearraw x (data.extractLsb' 0 32))
        ∧ ∃ t, exec (.srbxClearraw x (data.extractLsb' 0 32)) s = .next t
          ∧ (x < s.cfg.nSRBX → t.resp = some 0#64 ∧ ExtensionWritten x
              ⟨(s.srbxAt x).rawStatus &&& ~~~(data.extractLsb' 0 32), (s.srbxAt x).mask⟩ s t)
          ∧ (s.cfg.nSRBX ≤ x → t = s.faulted (.prgId .srbx x)))

/-- R139, R140, R141: the reads of an extension answer the mask, the raw status and their AND; they change nothing but
the response word. -/
def Obligations.SrbxReadsAnswerFields : Prop :=
  ∀ (s : State) (x : Nat) (data : DoubleWord), x < 65536 →
    (decode (cmdOf 0x34000000 0 x) data = .ok (.srbxGetmask x)
        ∧ exec (.srbxGetmask x) s = .next (if x < s.cfg.nSRBX then
          { s with resp := some (BitVec.ofNat 64 (s.srbxAt x).mask.toNat) } else s.faulted (.prgId .srbx x)))
      ∧ (decode (cmdOf 0x35000000 0 x) data = .ok (.srbxGetraw x)
        ∧ exec (.srbxGetraw x) s = .next (if x < s.cfg.nSRBX then
          { s with resp := some (BitVec.ofNat 64 (s.srbxAt x).rawStatus.toNat) } else s.faulted (.prgId .srbx x)))
      ∧ (decode (cmdOf 0x36000000 0 x) data = .ok (.srbxGetmis x)
        ∧ exec (.srbxGetmis x) s = .next (if x < s.cfg.nSRBX then
          { s with resp := some (BitVec.ofNat 64 ((s.srbxAt x).rawStatus &&& (s.srbxAt x).mask).toNat) }
          else s.faulted (.prgId .srbx x)))

/-- R272: clearing an extension's parent bit at the parent while the extension's aggregate is nonzero is not undone by a
further private event: `SRBX.SETRAW` then changes the extension's raw status and nothing else. -/
def Obligations.ClearedParentBitStaysClear : Prop :=
  ∀ (s : State) (x : Nat) (bits : Word), s.Shape → x < s.cfg.nSRBX →
    (s.srbxAt x).rawStatus &&& (s.srbxAt x).mask ≠ 0#32 →
      exec (.srbxSetraw x bits) s = .next { s with
        srbx := s.srbx.set x
          ⟨(s.srbxAt x).rawStatus ||| (bits &&& (extConfig s.cfg x).xevMask), (s.srbxAt x).mask⟩,
        resp := some 0#64 }

/-! ### The Arbiter -/

/-- R150, R151: when some line competes in a class, exactly one stands before every other (highest priority, then
highest weight, then lowest id), and it is the one `best` answers; when none does, `best` answers none. -/
def Obligations.WinnerIsUnique : Prop :=
  ∀ (s : State) (k : IrqClass),
    ((∃ i, i < s.cfg.nLINES ∧ competes s k i = true) →
        ∃ i, best s k = some i ∧ StandsFirst s k i ∧ ∀ j, StandsFirst s k j → j = i)
      ∧ ((∀ i < s.cfg.nLINES, competes s k i = false) → best s k = none)

/-- R153: `ARB.SETLEVEL` stores all four fields of the line (the weight as 0 on a flat Arbiter) and re-selects every
class that is not Locked; each output that changed has its edge, normal first. Nothing else changes. -/
def Obligations.ArbSetlevelStoresAndArbitrates : Prop :=
  ∀ (s : State) (id : Nat) (k : IrqClass) (data : DoubleWord), id < 65536 →
    decode (cmdOf 0x41000000 (subOf k) id) data
        = .ok (.arbSetlevel id k (data.extractLsb' 0 8) (data.extractLsb' 8 8) (data.getLsbD 16))
      ∧ ∃ t, exec (.arbSetlevel id k (data.extractLsb' 0 8) (data.extractLsb' 8 8) (data.getLsbD 16)) s = .next t
        ∧ (id < s.cfg.nLINES → t.resp = some 0#64
          ∧ t.lines = s.lines.set id ⟨decide (k = .fast), data.extractLsb' 0 8,
              if s.cfg.nestEnabled then data.extractLsb' 8 8 else 0#8, data.getLsbD 16⟩
          ∧ (∀ k', Rearbitrated s t k'
              ∧ (t.classAt k').maskBelowPriority = (s.classAt k').maskBelowPriority)
          ∧ t.trace = s.trace ++ edgeBetween s t .normal ++ edgeBetween s t .fast
          ∧ KeepsUnits s t ∧ KeepsRest s t)
        ∧ (s.cfg.nLINES ≤ id → t = s.faulted (.prgId .arb id))

/-- R154, R239: `ARB.TAKE` moves Pending(i) to Locked(i), with the falling edge and the answer `2^16 + i`; from Locked(i)
it answers `2^16 + i` and from Idle 0, and changes nothing but the response word. -/
def Obligations.ArbTakeLocksPending : Prop :=
  ∀ (s : State) (k : IrqClass) (data : DoubleWord),
    decode (cmdOf 0x42000000 (subOf k) 0) data = .ok (.arbTake k)
      ∧ (∀ i, (s.classAt k).lockedLineId = some i →
        exec (.arbTake k) s = .next { s with resp := some (BitVec.ofNat 64 (2 ^ 16 + i)) })
      ∧ (∀ i, (s.classAt k).lockedLineId = none → (s.classAt k).selectedLineId = some i →
        exec (.arbTake k) s = .next { s.setClass k ⟨some i, none, (s.classAt k).maskBelowPriority⟩ with
          trace := s.trace ++ [.outEdge k false], resp := some (BitVec.ofNat 64 (2 ^ 16 + i)) })
      ∧ ((s.classAt k).lockedLineId = none → (s.classAt k).selectedLineId = none →
        exec (.arbTake k) s = .next { s with resp := some 0#64 })

/-- R155, R232: `ARB.ACK` of a Locked class consumes the line (if `ACK_CONSUMES` and the line is still of the class),
releases the lock and selects the winner at once, with an edge exactly if the output differs from that of the selection
kept beside the lock (none, by R28); the other class and everything else is as before. `ARB.ACK` of a class that is Idle
or Pending stops the machine with `PRG_ACK`, code 3. -/
def Obligations.ArbAckReleasesAndSelects : Prop :=
  ∀ (s : State) (k : IrqClass) (data : DoubleWord),
    decode (cmdOf 0x43000000 (subOf k) 0) data = .ok (.arbAck k)
      ∧ ((s.classAt k).lockedLineId = none →
        exec (.arbAck k) s = .next (s.faulted (.prgAck k)) ∧ (FaultRecord.prgAck k).code = 3)
      ∧ ∀ i, (s.classAt k).lockedLineId = some i → ∃ t, exec (.arbAck k) s = .next t
        ∧ t.resp = some 0#64
        ∧ t.lines = (if s.cfg.ackConsumes = true ∧ ((s.lineAt i).isFastClass = true ↔ k = .fast) then
            s.lines.set i { s.lineAt i with asserted := false } else s.lines)
        ∧ (t.classAt k).lockedLineId = none ∧ Wins t k (t.classAt k).selectedLineId
        ∧ (t.classAt k).maskBelowPriority = (s.classAt k).maskBelowPriority
        ∧ (∀ k', k' ≠ k → t.classAt k' = s.classAt k')
        ∧ t.trace = s.trace ++ (if (t.classAt k).selectedLineId.isSome = (s.classAt k).selectedLineId.isSome then []
            else [.outEdge k (t.classAt k).selectedLineId.isSome])
        ∧ KeepsUnits s t ∧ KeepsRest s t

/-- R156: `ARB.SETMASK` sets or clears the filter of its class and re-selects it at once unless Locked, with the edge of
an output that changed; no line, no other class and nothing else changes. -/
def Obligations.ArbSetmaskFiltersAtOnce : Prop :=
  ∀ (s : State) (k : IrqClass) (data : DoubleWord),
    decode (cmdOf 0x44000000 (subOf k) 0) data = .ok (.arbSetmask k (data.getLsbD 8) (data.extractLsb' 0 8))
      ∧ ∃ t, exec (.arbSetmask k (data.getLsbD 8) (data.extractLsb' 0 8)) s = .next t
        ∧ t.resp = some 0#64 ∧ t.lines = s.lines
        ∧ (t.classAt k).maskBelowPriority = (if data.getLsbD 8 then some (data.extractLsb' 0 8) else none)
        ∧ Rearbitrated s t k ∧ (∀ k', k' ≠ k → t.classAt k' = s.classAt k')
        ∧ t.trace = s.trace ++ edgeBetween s t k ∧ KeepsUnits s t ∧ KeepsRest s t

/-- R158: `ARB.TAKE`, `ARB.ACK` and `ARB.SETMASK` of one class leave the other class's record and output alone; so does
`ARB.SETLEVEL` on a line that was not an asserted line of the other class, where the other class's selection is the
winner (R35 (d)). -/
def Obligations.ClassesDoNotInteract : Prop :=
  ∀ (s t : State) (k k' : IrqClass), k' ≠ k →
    (exec (.arbTake k) s = .next t ∨ exec (.arbAck k) s = .next t
        ∨ (∃ e n, exec (.arbSetmask k e n) s = .next t)
        ∨ (∃ id p w l, exec (.arbSetlevel id k p w l) s = .next t ∧ s.lines.length = s.cfg.nLINES ∧ Settled s k'
          ∧ ((s.lineAt id).asserted = false ∨ ((s.lineAt id).isFastClass = true ↔ k = .fast)))) →
      t.classAt k' = s.classAt k' ∧ t.out k' = s.out k'

/-- R239, R242: once a class is Locked on a line it stays Locked on it through every step but an `ARB.ACK` of that
class. -/
def Obligations.LockedClassWaitsForAck : Prop :=
  ∀ (s t : State) (k : IrqClass) (i : Nat), step s = .next t → (s.classAt k).lockedLineId = some i →
    (t.classAt k).lockedLineId = some i
      ∨ ∃ cmd data, s.inputs.head? = some (.command cmd data) ∧ decode cmd data = .ok (.arbAck k)

/-! ### The timer -/

/-- R177: the instant `SCHEDULE` computes for a count is the first, from the last rebase on, at which the counter of a
counting timer has reached it. -/
def Obligations.ReachIsFirstInstant : Prop :=
  ∀ (T : Vct) (f X : Nat), T.running = true → T.frequencyHz = some f → 0 < f →
    T.baseTimestamp ≤ T.reach f X ∧ X ≤ T.counterAt (T.reach f X)
      ∧ ∀ u, T.baseTimestamp ≤ u → u < T.reach f X → T.counterAt u < X

/-- R180, R183: `VCT.START` of a stopped, fully written timer lets it count from `counterBase` at `NOW` and arms the
exact deadline; a running timer is left alone; an unwritten one stops the machine with `UNWRITTEN`, code 5. -/
def Obligations.VctStartArmsDeadline : Prop :=
  ∀ (s : State) (t : Nat) (data : DoubleWord), t < 65536 →
    decode (cmdOf 0x51000000 0 t) data = .ok (.vctStart t)
      ∧ (s.cfg.nVCT ≤ t → exec (.vctStart t) s = .next (s.faulted (.prgId .vct t)))
      ∧ (t < s.cfg.nVCT → (s.vctAt t).running = true →
        exec (.vctStart t) s = .next { s with resp := some 0#64 })
      ∧ (t < s.cfg.nVCT → (s.vctAt t).running = false → ¬ (s.vctAt t).Written →
        exec (.vctStart t) s = .next (s.faulted (.unwritten t)) ∧ (FaultRecord.unwritten t).code = 5)
      ∧ (s.Shape → t < s.cfg.nVCT → (s.vctAt t).running = false → (s.vctAt t).Written →
        ∃ d, exec (.vctStart t) s = .next { s with
            vct := s.vct.set t { s.vctAt t with baseTimestamp := s.now, running := true, deadline := d },
            resp := some 0#64 }
          ∧ Vct.ArmedExactly { s.vctAt t with baseTimestamp := s.now, running := true, deadline := d } s.now)

/-- R176, R181: `VCT.STOP` of a running timer folds the elapsed time into `counterBase`, stops and disarms it; a stopped
timer is left alone. -/
def Obligations.VctStopHoldsCount : Prop :=
  ∀ (s : State) (t : Nat) (data : DoubleWord), t < 65536 →
    decode (cmdOf 0x52000000 0 t) data = .ok (.vctStop t)
      ∧ (s.cfg.nVCT ≤ t → exec (.vctStop t) s = .next (s.faulted (.prgId .vct t)))
      ∧ (t < s.cfg.nVCT → (s.vctAt t).running = false →
        exec (.vctStop t) s = .next { s with resp := some 0#64 })
      ∧ (t < s.cfg.nVCT → (s.vctAt t).running = true →
        exec (.vctStop t) s = .next { s with
          vct := s.vct.set t { s.vctAt t with counterBase := (s.vctAt t).counterAt s.now, baseTimestamp := s.now,
                                              running := false, deadline := none },
          resp := some 0#64 })

/-- R182, R262: `VCT.RESET` zeroes the counter at `NOW`, clears every fired flag and arms the exact deadline; the
frequency, the modulus, the thresholds and the running flag are as before. -/
def Obligations.VctResetZeroesCounter : Prop :=
  ∀ (s : State) (t : Nat) (data : DoubleWord), t < 65536 →
    decode (cmdOf 0x53000000 0 t) data = .ok (.vctReset t)
      ∧ (s.cfg.nVCT ≤ t → exec (.vctReset t) s = .next (s.faulted (.prgId .vct t)))
      ∧ (s.Shape → t < s.cfg.nVCT → ((s.vctAt t).running = true → (s.vctAt t).Written) →
        ∃ T, T = { s.vctAt t with
            counterBase := 0, baseTimestamp := s.now, deadline := T.deadline,
            alarms := (s.vctAt t).alarms.map fun a => ⟨a.threshold, false⟩ }
          ∧ T.ArmedExactly s.now
          ∧ exec (.vctReset t) s = .next { s with vct := s.vct.set t T, resp := some 0#64 })

/-- R184, R190 (b): `VCT.SETFREQ` rebases at the old rate, so that the counter keeps its value, then changes the rate
and arms the exact deadline (none at 0 Hz); every fired flag is as before. -/
def Obligations.VctSetfreqKeepsCount : Prop :=
  ∀ (s : State) (t : Nat) (data : DoubleWord), t < 65536 →
    decode (cmdOf 0x54000000 0 t) data = .ok (.vctSetfreq t data.toNat)
      ∧ (s.cfg.nVCT ≤ t → exec (.vctSetfreq t data.toNat) s = .next (s.faulted (.prgId .vct t)))
      ∧ (s.Shape → t < s.cfg.nVCT → ((s.vctAt t).running = true → (s.vctAt t).Written) →
        ∃ T, T = { s.vctAt t with
            counterBase := (s.vctAt t).counterAt s.now, baseTimestamp := s.now,
            frequencyHz := some data.toNat, deadline := T.deadline }
          ∧ T.counterAt s.now = (s.vctAt t).counterAt s.now ∧ T.ArmedExactly s.now
          ∧ exec (.vctSetfreq t data.toNat) s = .next { s with vct := s.vct.set t T, resp := some 0#64 })

/-- R185: `VCT.SETOVF` stores the modulus; a counter above it is clamped to it, and rebased, and otherwise left alone;
the exact deadline is armed. A modulus of 0 stops the machine with `PRG_MOD0`, code 4, after the index check. -/
def Obligations.VctSetovfClampsCounter : Prop :=
  ∀ (s : State) (t : Nat) (data : DoubleWord), t < 65536 →
    decode (cmdOf 0x55000000 0 t) data = .ok (.vctSetovf t data.toNat)
      ∧ (s.cfg.nVCT ≤ t → exec (.vctSetovf t data.toNat) s = .next (s.faulted (.prgId .vct t)))
      ∧ (t < s.cfg.nVCT → data.toNat = 0 →
        exec (.vctSetovf t data.toNat) s = .next (s.faulted (.prgMod0 t)) ∧ (FaultRecord.prgMod0 t).code = 4)
      ∧ (s.Shape → t < s.cfg.nVCT → data.toNat ≠ 0 → (s.vctAt t).baseTimestamp ≤ s.now →
        ∃ T, T = { s.vctAt t with
            overflowModulus := some data.toNat, deadline := T.deadline,
            counterBase := if data.toNat < (s.vctAt t).counterAt s.now then data.toNat else (s.vctAt t).counterBase,
            baseTimestamp := if data.toNat < (s.vctAt t).counterAt s.now then s.now else (s.vctAt t).baseTimestamp }
          ∧ T.counterAt s.now = min ((s.vctAt t).counterAt s.now) data.toNat ∧ T.ArmedExactly s.now
          ∧ exec (.vctSetovf t data.toNat) s = .next { s with vct := s.vct.set t T, resp := some 0#64 })

/-- R186: `VCT.SETALARM` stores the threshold and marks the alarm fired exactly if the counter has reached it, without a
callback; the exact deadline is armed. The timer index is checked before the alarm id. -/
def Obligations.VctSetalarmMarksPassed : Prop :=
  ∀ (s : State) (t alarm : Nat) (data : DoubleWord), t < 65536 → alarm < 256 →
    decode (cmdOf 0x56000000 alarm t) data = .ok (.vctSetalarm t alarm data.toNat)
      ∧ (s.cfg.nVCT ≤ t → exec (.vctSetalarm t alarm data.toNat) s = .next (s.faulted (.prgId .vct t)))
      ∧ (t < s.cfg.nVCT → alarmCount s.cfg t ≤ alarm →
        exec (.vctSetalarm t alarm data.toNat) s = .next (s.faulted (.prgId .vctAlarm alarm)))
      ∧ (s.Shape → t < s.cfg.nVCT → alarm < alarmCount s.cfg t → (s.vctAt t).Ready s.now →
        ∃ T, T = { s.vctAt t with
            deadline := T.deadline,
            alarms := (s.vctAt t).alarms.set alarm
              ⟨some data.toNat, decide (data.toNat ≤ (s.vctAt t).counterAt s.now)⟩ }
          ∧ T.ArmedExactly s.now
          ∧ exec (.vctSetalarm t alarm data.toNat) s = .next { s with vct := s.vct.set t T, resp := some 0#64 })

/-- R178, R179, R187: the pass of a timer that does not count only disarms it. Otherwise it performs the callbacks of
the reached alarms in ascending order; if the modulus is reached, the counter is 0 from `NOW` on, then the overflow
callback and those of the alarms of threshold 0 follow, and exactly these stay fired; the exact deadline is armed. What
the callbacks do is `fireAll`; beside that, only this timer's record and the response word change. A reached
alarm is one whose threshold is not above the modulus either: where the count has passed both, the model follows R274 and
not R187's pseudocode (log 26). -/
def Obligations.VctTickFiresReachedAlarms : Prop :=
  ∀ (s : State) (t : Nat) (data : DoubleWord), t < 65536 →
    decode (cmdOf 0x57000000 0 t) data = .ok (.vctTick t)
      ∧ (s.cfg.nVCT ≤ t → exec (.vctTick t) s = .next (s.faulted (.prgId .vct t)))
      ∧ (t < s.cfg.nVCT → ¬ (s.vctAt t).Counting →
        exec (.vctTick t) s = .next { s with
          vct := s.vct.set t { s.vctAt t with deadline := none }, resp := some 0#64 })
      ∧ (s.Shape → t < s.cfg.nVCT → (s.vctAt t).Counting → (s.vctAt t).Ready s.now →
        ∃ T, T = { s.vctAt t with
            deadline := T.deadline,
            alarms := alarmsAfterPass (s.vctAt t) ((s.vctAt t).counterAt s.now),
            counterBase := if ∃ m ∈ (s.vctAt t).overflowModulus, m ≤ (s.vctAt t).counterAt s.now then 0
              else (s.vctAt t).counterBase,
            baseTimestamp := if ∃ m ∈ (s.vctAt t).overflowModulus, m ≤ (s.vctAt t).counterAt s.now then s.now
              else (s.vctAt t).baseTimestamp }
          ∧ T.ArmedExactly s.now
          ∧ exec (.vctTick t) s = .next
            { fireAll t (expectedCallbacks (s.vctAt t) ((s.vctAt t).counterAt s.now)) s with
              vct := s.vct.set t T, resp := some 0#64 })

/-- R187, corner case (c): after the pass of a written timer with a positive modulus no event of it is due, so that its
deadline is none or strictly later: no timer can loop at one instant. -/
def Obligations.PassLeavesNothingDue : Prop :=
  ∀ (s u : State) (t : Nat), s.Shape → t < s.cfg.nVCT → (s.vctAt t).Ready s.now →
    (s.vctAt t).overflowModulus ≠ some 0 → exec (.vctTick t) s = .next u →
      u.now = s.now ∧ (u.vctAt t).deadline ≠ some u.now
        ∧ ((s.vctAt t).Counting → ¬ (u.vctAt t).EventAt ((u.vctAt t).counterAt u.now))

/-- R188, R189, R31: `VCT.GETCNT` answers the counter and `VCT.NEXT` the offset of the deadline, saturated below the code
for "disarmed"; they change nothing but the response word. (A counter of 2^64 or more, which R35 (e) excludes, would be
answered modulo 2^64, log 16.) -/
def Obligations.VctReadsAnswerCountAndDeadline : Prop :=
  ∀ (s : State) (t : Nat) (data : DoubleWord), t < 65536 →
    (decode (cmdOf 0x58000000 0 t) data = .ok (.vctGetcnt t)
        ∧ exec (.vctGetcnt t) s = .next (if t < s.cfg.nVCT then
          { s with resp := some (BitVec.ofNat 64 ((s.vctAt t).counterAt s.now)) } else s.faulted (.prgId .vct t)))
      ∧ (decode (cmdOf 0x59000000 0 t) data = .ok (.vctNext t)
        ∧ (s.cfg.nVCT ≤ t → exec (.vctNext t) s = .next (s.faulted (.prgId .vct t)))
        ∧ (t < s.cfg.nVCT → (s.vctAt t).deadline = none →
          exec (.vctNext t) s = .next { s with resp := some 0xFFFFFFFFFFFFFFFF#64 })
        ∧ ∀ d, t < s.cfg.nVCT → (s.vctAt t).deadline = some d →
          exec (.vctNext t) s = .next { s with
            resp := some (if 2 ^ 64 - 2 ≤ d - s.now then 0xFFFFFFFFFFFFFFFE#64 else BitVec.ofNat 64 (d - s.now)) })

/-- R214: a callback first appends its record, then performs its route: nothing; what `SRL.ASSERT` does to its line;
what `SRB.SETRAW` or `SRBX.SETRAW` with the configured bits does to its bank or extension. It answers no response word.
-/
def Obligations.RoutePerformsCommandEffect : Prop :=
  ∀ (s : State) (t : Nat) (k : Callback),
    (routeOf s.cfg t k = .none → fire t k s = { s with trace := s.trace ++ [.fire t k] })
      ∧ (∀ r, routeOf s.cfg t k = .srl r → r < s.cfg.nSRL →
        ∃ u, exec (.srlAssert r) { s with trace := s.trace ++ [.fire t k] } = .next u
          ∧ fire t k s = { u with resp := s.resp })
      ∧ (∀ b bits, routeOf s.cfg t k = .srb b bits → b < s.cfg.nSRB →
        ∃ u, exec (.srbSetraw b bits) { s with trace := s.trace ++ [.fire t k] } = .next u
          ∧ fire t k s = { u with resp := s.resp })
      ∧ ∀ x bits, routeOf s.cfg t k = .srbx x bits → x < s.cfg.nSRBX →
        ∃ u, exec (.srbxSetraw x bits) { s with trace := s.trace ++ [.fire t k] } = .next u
          ∧ fire t k s = { u with resp := s.resp }

/-! ### Invariants and whole-machine rules -/

/-- R35, R36: the invariant holds of every machine right after reset. -/
def Obligations.InvariantHoldsAtReset : Prop :=
  ∀ (cfg : Config) (s : State), construct cfg = .ok s → Inv s

/-- R35 (a) to (d), (f), (g), R25 to R27, R30, R231: the invariant is kept by every step, from every state that has it.
-/
def Obligations.InvariantKeptByStep : Prop :=
  ∀ s t : State, Inv s → step s = .next t → Inv t

/-- R157: the output edges of each class alternate 1, 0, 1, ..., the last being the output; this holds after reset and
every step keeps it, from every state that has it and the invariant. -/
def Obligations.ClassOutputsAlternate : Prop :=
  (∀ cfg, EdgesOk (State.resetOf cfg)) ∧ ∀ s t : State, Inv s → EdgesOk s → step s = .next t → EdgesOk t

/-- R116, R132: the deliveries of a RequestLine, and of a bank line, to a sink no other source shares alternate nonzero,
zero, nonzero, ..., the last being the latch; this holds after reset and every step keeps it, from every state that has
it and the invariant. -/
def Obligations.DeliveriesAlternate : Prop :=
  (∀ cfg, configOk cfg = true → DeliveriesOk (State.resetOf cfg))
    ∧ ∀ s t : State, Inv s → DeliveriesOk s → step s = .next t → DeliveriesOk t

/-- R35 (e), R178: whenever no timer is due, the counter of every running timer is at most its modulus; of a timer that
counts it is below the modulus, and below every unfired alarm's threshold. A running timer at 0 Hz, which R30 says
behaves as stopped, can stand at its modulus: (e) excepts the time between a `VCT.SETOVF` and the pass it arms, and at 0
Hz, which C6 does not name, the pass waits for a nonzero rate (the model's choice, log 19;
`RestAtModulusOnlyAfterCommand`). -/
def Obligations.CounterBelowModulusWhenNothingDue : Prop :=
  ∀ (s : State), Inv s → (∀ T ∈ s.vct, T.deadline ≠ some s.now) →
    ∀ t < s.cfg.nVCT, (s.vctAt t).running = true →
      ∃ m, (s.vctAt t).overflowModulus = some m ∧ (s.vctAt t).counterAt s.now ≤ m
        ∧ ((s.vctAt t).Counting → (s.vctAt t).counterAt s.now < m
          ∧ ∀ a ∈ (s.vctAt t).alarms, a.fired = false → ∃ x, a.threshold = some x ∧ (s.vctAt t).counterAt s.now < x)

/-- R190 (a), (d): of an armed timer, a pass at any earlier instant fires nothing and leaves the counter alone; a pass at
the deadline fires exactly the reached alarms (those above the modulus never, R274, log 26) and, if the modulus is reached, the overflow and the alarms of threshold
0, at least one of them; the counter afterwards is 0 after an overflow and unchanged otherwise. -/
def Obligations.NextDeadlineRoundTrip : Prop :=
  ∀ (s : State) (t d : Nat), Inv s → t < s.cfg.nVCT → (s.vctAt t).deadline = some d →
    (∀ n, s.now ≤ n → n < d → ∃ u, exec (.vctTick t) { s with now := n } = .next u
        ∧ firesOf (newEvents s u) = [] ∧ (u.vctAt t).counterAt n = (s.vctAt t).counterAt n)
      ∧ ∃ u, exec (.vctTick t) { s with now := d } = .next u
        ∧ expectedCallbacks (s.vctAt t) ((s.vctAt t).counterAt d) ≠ []
        ∧ firesOf (newEvents s u)
          = (expectedCallbacks (s.vctAt t) ((s.vctAt t).counterAt d)).map (Event.fire t)
        ∧ (u.vctAt t).counterAt d
          = if ∃ m ∈ (s.vctAt t).overflowModulus, m ≤ (s.vctAt t).counterAt d then 0 else (s.vctAt t).counterAt d

/-- R218: when two timers are due at one instant, both orders of their passes end in the same state, the list of events
apart. R218's sentence on the `OutEdge` sequences is left out: it fails where the issuer drives a line that a sink
drives too (log 5). -/
def Obligations.DuePassOrderDoesNotMatter : Prop :=
  ∀ (s : State) (t t' : Nat), Inv s → t ≠ t' → t < s.cfg.nVCT → t' < s.cfg.nVCT →
    (s.vctAt t).deadline = some s.now → (s.vctAt t').deadline = some s.now →
      { tickPass t' (tickPass t s) with trace := [] } = { tickPass t (tickPass t' s) with trace := [] }

/-- R65: the reads named there change nothing but the response word (and the fault record, for an index out of range);
issued again in the state they leave, they answer the same. The writes named there, issued twice in a row, leave the
same state and the second produces no event. -/
def Obligations.RepeatedCommandsChangeNothing : Prop :=
  ∀ (i : Instr) (s t : State), s.Shape → exec i s = .next t →
    (isPureRead i = true → t = { s with resp := t.resp, fault := t.fault } ∧ exec i t = .next t)
      ∧ (isIdempotentWrite i = true → exec i t = .next t)

/-- R190 (c): in any run, from a state of the right shape, each alarm fires at most once in each counter cycle: between
two overflows of its timer, `VCT.RESET`s of it or re-arming `VCT.SETALARM`s of the alarm; and not at all in a cycle in
which it is already marked fired. -/
def Obligations.AlarmFiresOncePerCycle : Prop :=
  ∀ (s : State) (t i n : Nat), s.Shape → t < s.cfg.nVCT → i < alarmCount s.cfg t →
    firesOncePerCycle (decide (∃ a ∈ (s.vctAt t).alarms[i]?, a.fired = true)) (cycleMarks t i n s) = true

/-- R178, R186, R263, R274: an alarm that a step fires has a threshold at or below the modulus of its timer, at every
frequency; so an alarm above the modulus never fires, also after the modulus was lowered. (Above `10^9` Hz R187's
pseudocode says otherwise, log 26.) And, as R187 says of timers of at most `10^9` Hz, there is no count above the modulus
to discard: no such timer has counted past its modulus after reset, and every step keeps this from every state that has it
and the invariant. -/
def Obligations.AlarmAboveModulusNeverFires : Prop :=
  (∀ s u : State, Inv s → step s = .next u → ∀ t i, .fire t (.alarm i) ∈ newEvents s u →
      ∃ a ∈ (s.vctAt t).alarms[i]?, ∃ x ∈ a.threshold, ∃ m ∈ (s.vctAt t).overflowModulus, x ≤ m)
    ∧ (∀ cfg, ∀ T ∈ (State.resetOf cfg).vct, T.OnTime (State.resetOf cfg).now)
    ∧ ∀ s u : State, Inv s → (∀ T ∈ s.vct, T.OnTime s.now) → step s = .next u → ∀ T ∈ u.vct, T.OnTime u.now

/-- R35 (e), R178, R184, R185: the window in which a running timer stands at its modulus with nothing due (the model's
choice, log 19). It opens only at 0 Hz, when a `VCT.SETOVF` brings the modulus down to the counter or below, or a `VCT.START` starts the timer
there. In it the counter is the modulus, and no more. The first nonzero rate ends it: its `VCT.SETFREQ` arms the pass at
`NOW`, before any other command (R217). -/
def Obligations.RestAtModulusOnlyAfterCommand : Prop :=
  (∀ (s u : State) (t : Nat), Inv s → step s = .next u → t < s.cfg.nVCT → (u.vctAt t).RestsAtModulus →
    (s.vctAt t).RestsAtModulus
      ∨ ∃ cmd data, s.inputs.head? = some (.command cmd data)
        ∧ ((decode cmd data = .ok (.vctSetovf t data.toNat) ∧ data.toNat ≤ (s.vctAt t).counterAt s.now)
          ∨ (decode cmd data = .ok (.vctStart t) ∧ (s.vctAt t).overflowModulus = some (s.vctAt t).counterBase)))
    ∧ ∀ (s : State) (t : Nat), Inv s → t < s.cfg.nVCT → (s.vctAt t).RestsAtModulus →
      (s.vctAt t).overflowModulus = some ((s.vctAt t).counterAt s.now)
        ∧ ∀ hz, hz ≠ 0 → ∃ u, exec (.vctSetfreq t hz) s = .next u ∧ u.now = s.now ∧ (u.vctAt t).deadline = some u.now

end Statements
end

