-- ==== Sys2Proof/Laws/State.lean ====
section
/-! SUPPORT. The small lemmas of the state: each field after each update, each unit after each update. -/

namespace Sys2Proof.Machine

variable (s : State)

/-! ### `setClc` -/

@[simp] theorem setClc_cfg (c : Nat) (u : Clc) : (s.setClc c u).cfg = s.cfg := rfl
@[simp] theorem setClc_clc (c : Nat) (u : Clc) : (s.setClc c u).clc = s.clc.set c u := rfl
@[simp] theorem setClc_srl (c : Nat) (u : Clc) : (s.setClc c u).srl = s.srl := rfl
@[simp] theorem setClc_srb (c : Nat) (u : Clc) : (s.setClc c u).srb = s.srb := rfl
@[simp] theorem setClc_srbx (c : Nat) (u : Clc) : (s.setClc c u).srbx = s.srbx := rfl
@[simp] theorem setClc_lines (c : Nat) (u : Clc) : (s.setClc c u).lines = s.lines := rfl
@[simp] theorem setClc_normal (c : Nat) (u : Clc) : (s.setClc c u).normal = s.normal := rfl
@[simp] theorem setClc_fast (c : Nat) (u : Clc) : (s.setClc c u).fast = s.fast := rfl
@[simp] theorem setClc_vct (c : Nat) (u : Clc) : (s.setClc c u).vct = s.vct := rfl
@[simp] theorem setClc_fault (c : Nat) (u : Clc) : (s.setClc c u).fault = s.fault := rfl
@[simp] theorem setClc_now (c : Nat) (u : Clc) : (s.setClc c u).now = s.now := rfl
@[simp] theorem setClc_resp (c : Nat) (u : Clc) : (s.setClc c u).resp = s.resp := rfl
@[simp] theorem setClc_trace (c : Nat) (u : Clc) : (s.setClc c u).trace = s.trace := rfl
@[simp] theorem setClc_inputs (c : Nat) (u : Clc) : (s.setClc c u).inputs = s.inputs := rfl

/-! ### `setSrl` -/

@[simp] theorem setSrl_cfg (r : Nat) (u : Srl) : (s.setSrl r u).cfg = s.cfg := rfl
@[simp] theorem setSrl_clc (r : Nat) (u : Srl) : (s.setSrl r u).clc = s.clc := rfl
@[simp] theorem setSrl_srl (r : Nat) (u : Srl) : (s.setSrl r u).srl = s.srl.set r u := rfl
@[simp] theorem setSrl_srb (r : Nat) (u : Srl) : (s.setSrl r u).srb = s.srb := rfl
@[simp] theorem setSrl_srbx (r : Nat) (u : Srl) : (s.setSrl r u).srbx = s.srbx := rfl
@[simp] theorem setSrl_lines (r : Nat) (u : Srl) : (s.setSrl r u).lines = s.lines := rfl
@[simp] theorem setSrl_normal (r : Nat) (u : Srl) : (s.setSrl r u).normal = s.normal := rfl
@[simp] theorem setSrl_fast (r : Nat) (u : Srl) : (s.setSrl r u).fast = s.fast := rfl
@[simp] theorem setSrl_vct (r : Nat) (u : Srl) : (s.setSrl r u).vct = s.vct := rfl
@[simp] theorem setSrl_fault (r : Nat) (u : Srl) : (s.setSrl r u).fault = s.fault := rfl
@[simp] theorem setSrl_now (r : Nat) (u : Srl) : (s.setSrl r u).now = s.now := rfl
@[simp] theorem setSrl_resp (r : Nat) (u : Srl) : (s.setSrl r u).resp = s.resp := rfl
@[simp] theorem setSrl_trace (r : Nat) (u : Srl) : (s.setSrl r u).trace = s.trace := rfl
@[simp] theorem setSrl_inputs (r : Nat) (u : Srl) : (s.setSrl r u).inputs = s.inputs := rfl

/-! ### `setSrb` -/

@[simp] theorem setSrb_cfg (b : Nat) (u : Srb) : (s.setSrb b u).cfg = s.cfg := rfl
@[simp] theorem setSrb_clc (b : Nat) (u : Srb) : (s.setSrb b u).clc = s.clc := rfl
@[simp] theorem setSrb_srl (b : Nat) (u : Srb) : (s.setSrb b u).srl = s.srl := rfl
@[simp] theorem setSrb_srb (b : Nat) (u : Srb) : (s.setSrb b u).srb = s.srb.set b u := rfl
@[simp] theorem setSrb_srbx (b : Nat) (u : Srb) : (s.setSrb b u).srbx = s.srbx := rfl
@[simp] theorem setSrb_lines (b : Nat) (u : Srb) : (s.setSrb b u).lines = s.lines := rfl
@[simp] theorem setSrb_normal (b : Nat) (u : Srb) : (s.setSrb b u).normal = s.normal := rfl
@[simp] theorem setSrb_fast (b : Nat) (u : Srb) : (s.setSrb b u).fast = s.fast := rfl
@[simp] theorem setSrb_vct (b : Nat) (u : Srb) : (s.setSrb b u).vct = s.vct := rfl
@[simp] theorem setSrb_fault (b : Nat) (u : Srb) : (s.setSrb b u).fault = s.fault := rfl
@[simp] theorem setSrb_now (b : Nat) (u : Srb) : (s.setSrb b u).now = s.now := rfl
@[simp] theorem setSrb_resp (b : Nat) (u : Srb) : (s.setSrb b u).resp = s.resp := rfl
@[simp] theorem setSrb_trace (b : Nat) (u : Srb) : (s.setSrb b u).trace = s.trace := rfl
@[simp] theorem setSrb_inputs (b : Nat) (u : Srb) : (s.setSrb b u).inputs = s.inputs := rfl

/-! ### `setSrbx` -/

@[simp] theorem setSrbx_cfg (x : Nat) (u : Srbx) : (s.setSrbx x u).cfg = s.cfg := rfl
@[simp] theorem setSrbx_clc (x : Nat) (u : Srbx) : (s.setSrbx x u).clc = s.clc := rfl
@[simp] theorem setSrbx_srl (x : Nat) (u : Srbx) : (s.setSrbx x u).srl = s.srl := rfl
@[simp] theorem setSrbx_srb (x : Nat) (u : Srbx) : (s.setSrbx x u).srb = s.srb := rfl
@[simp] theorem setSrbx_srbx (x : Nat) (u : Srbx) : (s.setSrbx x u).srbx = s.srbx.set x u := rfl
@[simp] theorem setSrbx_lines (x : Nat) (u : Srbx) : (s.setSrbx x u).lines = s.lines := rfl
@[simp] theorem setSrbx_normal (x : Nat) (u : Srbx) : (s.setSrbx x u).normal = s.normal := rfl
@[simp] theorem setSrbx_fast (x : Nat) (u : Srbx) : (s.setSrbx x u).fast = s.fast := rfl
@[simp] theorem setSrbx_vct (x : Nat) (u : Srbx) : (s.setSrbx x u).vct = s.vct := rfl
@[simp] theorem setSrbx_fault (x : Nat) (u : Srbx) : (s.setSrbx x u).fault = s.fault := rfl
@[simp] theorem setSrbx_now (x : Nat) (u : Srbx) : (s.setSrbx x u).now = s.now := rfl
@[simp] theorem setSrbx_resp (x : Nat) (u : Srbx) : (s.setSrbx x u).resp = s.resp := rfl
@[simp] theorem setSrbx_trace (x : Nat) (u : Srbx) : (s.setSrbx x u).trace = s.trace := rfl
@[simp] theorem setSrbx_inputs (x : Nat) (u : Srbx) : (s.setSrbx x u).inputs = s.inputs := rfl

/-! ### `setLine` -/

@[simp] theorem setLine_cfg (i : Nat) (u : ArbLine) : (s.setLine i u).cfg = s.cfg := rfl
@[simp] theorem setLine_clc (i : Nat) (u : ArbLine) : (s.setLine i u).clc = s.clc := rfl
@[simp] theorem setLine_srl (i : Nat) (u : ArbLine) : (s.setLine i u).srl = s.srl := rfl
@[simp] theorem setLine_srb (i : Nat) (u : ArbLine) : (s.setLine i u).srb = s.srb := rfl
@[simp] theorem setLine_srbx (i : Nat) (u : ArbLine) : (s.setLine i u).srbx = s.srbx := rfl
@[simp] theorem setLine_lines (i : Nat) (u : ArbLine) : (s.setLine i u).lines = s.lines.set i u := rfl
@[simp] theorem setLine_normal (i : Nat) (u : ArbLine) : (s.setLine i u).normal = s.normal := rfl
@[simp] theorem setLine_fast (i : Nat) (u : ArbLine) : (s.setLine i u).fast = s.fast := rfl
@[simp] theorem setLine_vct (i : Nat) (u : ArbLine) : (s.setLine i u).vct = s.vct := rfl
@[simp] theorem setLine_fault (i : Nat) (u : ArbLine) : (s.setLine i u).fault = s.fault := rfl
@[simp] theorem setLine_now (i : Nat) (u : ArbLine) : (s.setLine i u).now = s.now := rfl
@[simp] theorem setLine_resp (i : Nat) (u : ArbLine) : (s.setLine i u).resp = s.resp := rfl
@[simp] theorem setLine_trace (i : Nat) (u : ArbLine) : (s.setLine i u).trace = s.trace := rfl
@[simp] theorem setLine_inputs (i : Nat) (u : ArbLine) : (s.setLine i u).inputs = s.inputs := rfl

/-! ### `setVct` -/

@[simp] theorem setVct_cfg (t : Nat) (u : Vct) : (s.setVct t u).cfg = s.cfg := rfl
@[simp] theorem setVct_clc (t : Nat) (u : Vct) : (s.setVct t u).clc = s.clc := rfl
@[simp] theorem setVct_srl (t : Nat) (u : Vct) : (s.setVct t u).srl = s.srl := rfl
@[simp] theorem setVct_srb (t : Nat) (u : Vct) : (s.setVct t u).srb = s.srb := rfl
@[simp] theorem setVct_srbx (t : Nat) (u : Vct) : (s.setVct t u).srbx = s.srbx := rfl
@[simp] theorem setVct_lines (t : Nat) (u : Vct) : (s.setVct t u).lines = s.lines := rfl
@[simp] theorem setVct_normal (t : Nat) (u : Vct) : (s.setVct t u).normal = s.normal := rfl
@[simp] theorem setVct_fast (t : Nat) (u : Vct) : (s.setVct t u).fast = s.fast := rfl
@[simp] theorem setVct_vct (t : Nat) (u : Vct) : (s.setVct t u).vct = s.vct.set t u := rfl
@[simp] theorem setVct_fault (t : Nat) (u : Vct) : (s.setVct t u).fault = s.fault := rfl
@[simp] theorem setVct_now (t : Nat) (u : Vct) : (s.setVct t u).now = s.now := rfl
@[simp] theorem setVct_resp (t : Nat) (u : Vct) : (s.setVct t u).resp = s.resp := rfl
@[simp] theorem setVct_trace (t : Nat) (u : Vct) : (s.setVct t u).trace = s.trace := rfl
@[simp] theorem setVct_inputs (t : Nat) (u : Vct) : (s.setVct t u).inputs = s.inputs := rfl

/-! ### `setFault` -/

@[simp] theorem setFault_cfg (r : Option FaultRecord) : (s.setFault r).cfg = s.cfg := rfl
@[simp] theorem setFault_clc (r : Option FaultRecord) : (s.setFault r).clc = s.clc := rfl
@[simp] theorem setFault_srl (r : Option FaultRecord) : (s.setFault r).srl = s.srl := rfl
@[simp] theorem setFault_srb (r : Option FaultRecord) : (s.setFault r).srb = s.srb := rfl
@[simp] theorem setFault_srbx (r : Option FaultRecord) : (s.setFault r).srbx = s.srbx := rfl
@[simp] theorem setFault_lines (r : Option FaultRecord) : (s.setFault r).lines = s.lines := rfl
@[simp] theorem setFault_normal (r : Option FaultRecord) : (s.setFault r).normal = s.normal := rfl
@[simp] theorem setFault_fast (r : Option FaultRecord) : (s.setFault r).fast = s.fast := rfl
@[simp] theorem setFault_vct (r : Option FaultRecord) : (s.setFault r).vct = s.vct := rfl
@[simp] theorem setFault_fault (r : Option FaultRecord) : (s.setFault r).fault = r := rfl
@[simp] theorem setFault_now (r : Option FaultRecord) : (s.setFault r).now = s.now := rfl
@[simp] theorem setFault_resp (r : Option FaultRecord) : (s.setFault r).resp = s.resp := rfl
@[simp] theorem setFault_trace (r : Option FaultRecord) : (s.setFault r).trace = s.trace := rfl
@[simp] theorem setFault_inputs (r : Option FaultRecord) : (s.setFault r).inputs = s.inputs := rfl

/-! ### `setNow` -/

@[simp] theorem setNow_cfg (n : Nat) : (s.setNow n).cfg = s.cfg := rfl
@[simp] theorem setNow_clc (n : Nat) : (s.setNow n).clc = s.clc := rfl
@[simp] theorem setNow_srl (n : Nat) : (s.setNow n).srl = s.srl := rfl
@[simp] theorem setNow_srb (n : Nat) : (s.setNow n).srb = s.srb := rfl
@[simp] theorem setNow_srbx (n : Nat) : (s.setNow n).srbx = s.srbx := rfl
@[simp] theorem setNow_lines (n : Nat) : (s.setNow n).lines = s.lines := rfl
@[simp] theorem setNow_normal (n : Nat) : (s.setNow n).normal = s.normal := rfl
@[simp] theorem setNow_fast (n : Nat) : (s.setNow n).fast = s.fast := rfl
@[simp] theorem setNow_vct (n : Nat) : (s.setNow n).vct = s.vct := rfl
@[simp] theorem setNow_fault (n : Nat) : (s.setNow n).fault = s.fault := rfl
@[simp] theorem setNow_now (n : Nat) : (s.setNow n).now = n := rfl
@[simp] theorem setNow_resp (n : Nat) : (s.setNow n).resp = s.resp := rfl
@[simp] theorem setNow_trace (n : Nat) : (s.setNow n).trace = s.trace := rfl
@[simp] theorem setNow_inputs (n : Nat) : (s.setNow n).inputs = s.inputs := rfl

/-! ### `setResp` -/

@[simp] theorem setResp_cfg (v : Option DoubleWord) : (s.setResp v).cfg = s.cfg := rfl
@[simp] theorem setResp_clc (v : Option DoubleWord) : (s.setResp v).clc = s.clc := rfl
@[simp] theorem setResp_srl (v : Option DoubleWord) : (s.setResp v).srl = s.srl := rfl
@[simp] theorem setResp_srb (v : Option DoubleWord) : (s.setResp v).srb = s.srb := rfl
@[simp] theorem setResp_srbx (v : Option DoubleWord) : (s.setResp v).srbx = s.srbx := rfl
@[simp] theorem setResp_lines (v : Option DoubleWord) : (s.setResp v).lines = s.lines := rfl
@[simp] theorem setResp_normal (v : Option DoubleWord) : (s.setResp v).normal = s.normal := rfl
@[simp] theorem setResp_fast (v : Option DoubleWord) : (s.setResp v).fast = s.fast := rfl
@[simp] theorem setResp_vct (v : Option DoubleWord) : (s.setResp v).vct = s.vct := rfl
@[simp] theorem setResp_fault (v : Option DoubleWord) : (s.setResp v).fault = s.fault := rfl
@[simp] theorem setResp_now (v : Option DoubleWord) : (s.setResp v).now = s.now := rfl
@[simp] theorem setResp_resp (v : Option DoubleWord) : (s.setResp v).resp = v := rfl
@[simp] theorem setResp_trace (v : Option DoubleWord) : (s.setResp v).trace = s.trace := rfl
@[simp] theorem setResp_inputs (v : Option DoubleWord) : (s.setResp v).inputs = s.inputs := rfl

/-! ### `setInputs` -/

@[simp] theorem setInputs_cfg (is : List Input) : (s.setInputs is).cfg = s.cfg := rfl
@[simp] theorem setInputs_clc (is : List Input) : (s.setInputs is).clc = s.clc := rfl
@[simp] theorem setInputs_srl (is : List Input) : (s.setInputs is).srl = s.srl := rfl
@[simp] theorem setInputs_srb (is : List Input) : (s.setInputs is).srb = s.srb := rfl
@[simp] theorem setInputs_srbx (is : List Input) : (s.setInputs is).srbx = s.srbx := rfl
@[simp] theorem setInputs_lines (is : List Input) : (s.setInputs is).lines = s.lines := rfl
@[simp] theorem setInputs_normal (is : List Input) : (s.setInputs is).normal = s.normal := rfl
@[simp] theorem setInputs_fast (is : List Input) : (s.setInputs is).fast = s.fast := rfl
@[simp] theorem setInputs_vct (is : List Input) : (s.setInputs is).vct = s.vct := rfl
@[simp] theorem setInputs_fault (is : List Input) : (s.setInputs is).fault = s.fault := rfl
@[simp] theorem setInputs_now (is : List Input) : (s.setInputs is).now = s.now := rfl
@[simp] theorem setInputs_resp (is : List Input) : (s.setInputs is).resp = s.resp := rfl
@[simp] theorem setInputs_trace (is : List Input) : (s.setInputs is).trace = s.trace := rfl
@[simp] theorem setInputs_inputs (is : List Input) : (s.setInputs is).inputs = is := rfl

/-! ### `emit` -/

@[simp] theorem emit_cfg (e : Event) : (s.emit e).cfg = s.cfg := rfl
@[simp] theorem emit_clc (e : Event) : (s.emit e).clc = s.clc := rfl
@[simp] theorem emit_srl (e : Event) : (s.emit e).srl = s.srl := rfl
@[simp] theorem emit_srb (e : Event) : (s.emit e).srb = s.srb := rfl
@[simp] theorem emit_srbx (e : Event) : (s.emit e).srbx = s.srbx := rfl
@[simp] theorem emit_lines (e : Event) : (s.emit e).lines = s.lines := rfl
@[simp] theorem emit_normal (e : Event) : (s.emit e).normal = s.normal := rfl
@[simp] theorem emit_fast (e : Event) : (s.emit e).fast = s.fast := rfl
@[simp] theorem emit_vct (e : Event) : (s.emit e).vct = s.vct := rfl
@[simp] theorem emit_fault (e : Event) : (s.emit e).fault = s.fault := rfl
@[simp] theorem emit_now (e : Event) : (s.emit e).now = s.now := rfl
@[simp] theorem emit_resp (e : Event) : (s.emit e).resp = s.resp := rfl
@[simp] theorem emit_trace (e : Event) : (s.emit e).trace = s.trace ++ [e] := rfl
@[simp] theorem emit_inputs (e : Event) : (s.emit e).inputs = s.inputs := rfl

/-! ### `setClass` -/

@[simp] theorem setClass_cfg (k : IrqClass) (u : ArbClass) : (s.setClass k u).cfg = s.cfg := by cases k <;> rfl
@[simp] theorem setClass_clc (k : IrqClass) (u : ArbClass) : (s.setClass k u).clc = s.clc := by cases k <;> rfl
@[simp] theorem setClass_srl (k : IrqClass) (u : ArbClass) : (s.setClass k u).srl = s.srl := by cases k <;> rfl
@[simp] theorem setClass_srb (k : IrqClass) (u : ArbClass) : (s.setClass k u).srb = s.srb := by cases k <;> rfl
@[simp] theorem setClass_srbx (k : IrqClass) (u : ArbClass) : (s.setClass k u).srbx = s.srbx := by cases k <;> rfl
@[simp] theorem setClass_lines (k : IrqClass) (u : ArbClass) : (s.setClass k u).lines = s.lines := by cases k <;> rfl
@[simp] theorem setClass_vct (k : IrqClass) (u : ArbClass) : (s.setClass k u).vct = s.vct := by cases k <;> rfl
@[simp] theorem setClass_fault (k : IrqClass) (u : ArbClass) : (s.setClass k u).fault = s.fault := by cases k <;> rfl
@[simp] theorem setClass_now (k : IrqClass) (u : ArbClass) : (s.setClass k u).now = s.now := by cases k <;> rfl
@[simp] theorem setClass_resp (k : IrqClass) (u : ArbClass) : (s.setClass k u).resp = s.resp := by cases k <;> rfl
@[simp] theorem setClass_trace (k : IrqClass) (u : ArbClass) : (s.setClass k u).trace = s.trace := by cases k <;> rfl
@[simp] theorem setClass_inputs (k : IrqClass) (u : ArbClass) : (s.setClass k u).inputs = s.inputs := by cases k <;> rfl
@[simp] theorem setClass_normal_normal (u : ArbClass) : (s.setClass .normal u).normal = u := rfl
@[simp] theorem setClass_normal_fast (u : ArbClass) : (s.setClass .normal u).fast = s.fast := rfl
@[simp] theorem setClass_fast_normal (u : ArbClass) : (s.setClass .fast u).normal = s.normal := rfl
@[simp] theorem setClass_fast_fast (u : ArbClass) : (s.setClass .fast u).fast = u := rfl
@[simp] theorem classAt_setClass_self (k : IrqClass) (u : ArbClass) : (s.setClass k u).classAt k = u := by cases k <;> rfl
theorem classAt_setClass_ne {k k' : IrqClass} (u : ArbClass) (h : k' ≠ k) : (s.setClass k u).classAt k' = s.classAt k' := by
  cases k <;> cases k' <;> first | rfl | exact absurd rfl h
@[simp] theorem setClass_classAt (k : IrqClass) : s.setClass k (s.classAt k) = s := by cases k <;> rfl

/-! ### Units after updates of other fields -/

@[simp] theorem srlAt_setClc (k : Nat) (c : Nat) (u : Clc) : (s.setClc c u).srlAt k = s.srlAt k := rfl
@[simp] theorem srbAt_setClc (k : Nat) (c : Nat) (u : Clc) : (s.setClc c u).srbAt k = s.srbAt k := rfl
@[simp] theorem srbxAt_setClc (k : Nat) (c : Nat) (u : Clc) : (s.setClc c u).srbxAt k = s.srbxAt k := rfl
@[simp] theorem lineAt_setClc (k : Nat) (c : Nat) (u : Clc) : (s.setClc c u).lineAt k = s.lineAt k := rfl
@[simp] theorem vctAt_setClc (k : Nat) (c : Nat) (u : Clc) : (s.setClc c u).vctAt k = s.vctAt k := rfl
@[simp] theorem classAt_setClc (k : IrqClass) (c : Nat) (u : Clc) : (s.setClc c u).classAt k = s.classAt k := by cases k <;> rfl
@[simp] theorem out_setClc (k : IrqClass) (c : Nat) (u : Clc) : (s.setClc c u).out k = s.out k := by cases k <;> rfl
@[simp] theorem clcAt_setSrl (k : Nat) (r : Nat) (u : Srl) : (s.setSrl r u).clcAt k = s.clcAt k := rfl
@[simp] theorem srbAt_setSrl (k : Nat) (r : Nat) (u : Srl) : (s.setSrl r u).srbAt k = s.srbAt k := rfl
@[simp] theorem srbxAt_setSrl (k : Nat) (r : Nat) (u : Srl) : (s.setSrl r u).srbxAt k = s.srbxAt k := rfl
@[simp] theorem lineAt_setSrl (k : Nat) (r : Nat) (u : Srl) : (s.setSrl r u).lineAt k = s.lineAt k := rfl
@[simp] theorem vctAt_setSrl (k : Nat) (r : Nat) (u : Srl) : (s.setSrl r u).vctAt k = s.vctAt k := rfl
@[simp] theorem classAt_setSrl (k : IrqClass) (r : Nat) (u : Srl) : (s.setSrl r u).classAt k = s.classAt k := by cases k <;> rfl
@[simp] theorem out_setSrl (k : IrqClass) (r : Nat) (u : Srl) : (s.setSrl r u).out k = s.out k := by cases k <;> rfl
@[simp] theorem clcAt_setSrb (k : Nat) (b : Nat) (u : Srb) : (s.setSrb b u).clcAt k = s.clcAt k := rfl
@[simp] theorem srlAt_setSrb (k : Nat) (b : Nat) (u : Srb) : (s.setSrb b u).srlAt k = s.srlAt k := rfl
@[simp] theorem srbxAt_setSrb (k : Nat) (b : Nat) (u : Srb) : (s.setSrb b u).srbxAt k = s.srbxAt k := rfl
@[simp] theorem lineAt_setSrb (k : Nat) (b : Nat) (u : Srb) : (s.setSrb b u).lineAt k = s.lineAt k := rfl
@[simp] theorem vctAt_setSrb (k : Nat) (b : Nat) (u : Srb) : (s.setSrb b u).vctAt k = s.vctAt k := rfl
@[simp] theorem classAt_setSrb (k : IrqClass) (b : Nat) (u : Srb) : (s.setSrb b u).classAt k = s.classAt k := by cases k <;> rfl
@[simp] theorem out_setSrb (k : IrqClass) (b : Nat) (u : Srb) : (s.setSrb b u).out k = s.out k := by cases k <;> rfl
@[simp] theorem clcAt_setSrbx (k : Nat) (x : Nat) (u : Srbx) : (s.setSrbx x u).clcAt k = s.clcAt k := rfl
@[simp] theorem srlAt_setSrbx (k : Nat) (x : Nat) (u : Srbx) : (s.setSrbx x u).srlAt k = s.srlAt k := rfl
@[simp] theorem srbAt_setSrbx (k : Nat) (x : Nat) (u : Srbx) : (s.setSrbx x u).srbAt k = s.srbAt k := rfl
@[simp] theorem lineAt_setSrbx (k : Nat) (x : Nat) (u : Srbx) : (s.setSrbx x u).lineAt k = s.lineAt k := rfl
@[simp] theorem vctAt_setSrbx (k : Nat) (x : Nat) (u : Srbx) : (s.setSrbx x u).vctAt k = s.vctAt k := rfl
@[simp] theorem classAt_setSrbx (k : IrqClass) (x : Nat) (u : Srbx) : (s.setSrbx x u).classAt k = s.classAt k := by cases k <;> rfl
@[simp] theorem out_setSrbx (k : IrqClass) (x : Nat) (u : Srbx) : (s.setSrbx x u).out k = s.out k := by cases k <;> rfl
@[simp] theorem clcAt_setLine (k : Nat) (i : Nat) (u : ArbLine) : (s.setLine i u).clcAt k = s.clcAt k := rfl
@[simp] theorem srlAt_setLine (k : Nat) (i : Nat) (u : ArbLine) : (s.setLine i u).srlAt k = s.srlAt k := rfl
@[simp] theorem srbAt_setLine (k : Nat) (i : Nat) (u : ArbLine) : (s.setLine i u).srbAt k = s.srbAt k := rfl
@[simp] theorem srbxAt_setLine (k : Nat) (i : Nat) (u : ArbLine) : (s.setLine i u).srbxAt k = s.srbxAt k := rfl
@[simp] theorem vctAt_setLine (k : Nat) (i : Nat) (u : ArbLine) : (s.setLine i u).vctAt k = s.vctAt k := rfl
@[simp] theorem classAt_setLine (k : IrqClass) (i : Nat) (u : ArbLine) : (s.setLine i u).classAt k = s.classAt k := by cases k <;> rfl
@[simp] theorem out_setLine (k : IrqClass) (i : Nat) (u : ArbLine) : (s.setLine i u).out k = s.out k := by cases k <;> rfl
@[simp] theorem clcAt_setVct (k : Nat) (t : Nat) (u : Vct) : (s.setVct t u).clcAt k = s.clcAt k := rfl
@[simp] theorem srlAt_setVct (k : Nat) (t : Nat) (u : Vct) : (s.setVct t u).srlAt k = s.srlAt k := rfl
@[simp] theorem srbAt_setVct (k : Nat) (t : Nat) (u : Vct) : (s.setVct t u).srbAt k = s.srbAt k := rfl
@[simp] theorem srbxAt_setVct (k : Nat) (t : Nat) (u : Vct) : (s.setVct t u).srbxAt k = s.srbxAt k := rfl
@[simp] theorem lineAt_setVct (k : Nat) (t : Nat) (u : Vct) : (s.setVct t u).lineAt k = s.lineAt k := rfl
@[simp] theorem classAt_setVct (k : IrqClass) (t : Nat) (u : Vct) : (s.setVct t u).classAt k = s.classAt k := by cases k <;> rfl
@[simp] theorem out_setVct (k : IrqClass) (t : Nat) (u : Vct) : (s.setVct t u).out k = s.out k := by cases k <;> rfl
@[simp] theorem clcAt_setFault (k : Nat) (r : Option FaultRecord) : (s.setFault r).clcAt k = s.clcAt k := rfl
@[simp] theorem srlAt_setFault (k : Nat) (r : Option FaultRecord) : (s.setFault r).srlAt k = s.srlAt k := rfl
@[simp] theorem srbAt_setFault (k : Nat) (r : Option FaultRecord) : (s.setFault r).srbAt k = s.srbAt k := rfl
@[simp] theorem srbxAt_setFault (k : Nat) (r : Option FaultRecord) : (s.setFault r).srbxAt k = s.srbxAt k := rfl
@[simp] theorem lineAt_setFault (k : Nat) (r : Option FaultRecord) : (s.setFault r).lineAt k = s.lineAt k := rfl
@[simp] theorem vctAt_setFault (k : Nat) (r : Option FaultRecord) : (s.setFault r).vctAt k = s.vctAt k := rfl
@[simp] theorem classAt_setFault (k : IrqClass) (r : Option FaultRecord) : (s.setFault r).classAt k = s.classAt k := by cases k <;> rfl
@[simp] theorem out_setFault (k : IrqClass) (r : Option FaultRecord) : (s.setFault r).out k = s.out k := by cases k <;> rfl
@[simp] theorem clcAt_setNow (k : Nat) (n : Nat) : (s.setNow n).clcAt k = s.clcAt k := rfl
@[simp] theorem srlAt_setNow (k : Nat) (n : Nat) : (s.setNow n).srlAt k = s.srlAt k := rfl
@[simp] theorem srbAt_setNow (k : Nat) (n : Nat) : (s.setNow n).srbAt k = s.srbAt k := rfl
@[simp] theorem srbxAt_setNow (k : Nat) (n : Nat) : (s.setNow n).srbxAt k = s.srbxAt k := rfl
@[simp] theorem lineAt_setNow (k : Nat) (n : Nat) : (s.setNow n).lineAt k = s.lineAt k := rfl
@[simp] theorem vctAt_setNow (k : Nat) (n : Nat) : (s.setNow n).vctAt k = s.vctAt k := rfl
@[simp] theorem classAt_setNow (k : IrqClass) (n : Nat) : (s.setNow n).classAt k = s.classAt k := by cases k <;> rfl
@[simp] theorem out_setNow (k : IrqClass) (n : Nat) : (s.setNow n).out k = s.out k := by cases k <;> rfl
@[simp] theorem clcAt_setResp (k : Nat) (v : Option DoubleWord) : (s.setResp v).clcAt k = s.clcAt k := rfl
@[simp] theorem srlAt_setResp (k : Nat) (v : Option DoubleWord) : (s.setResp v).srlAt k = s.srlAt k := rfl
@[simp] theorem srbAt_setResp (k : Nat) (v : Option DoubleWord) : (s.setResp v).srbAt k = s.srbAt k := rfl
@[simp] theorem srbxAt_setResp (k : Nat) (v : Option DoubleWord) : (s.setResp v).srbxAt k = s.srbxAt k := rfl
@[simp] theorem lineAt_setResp (k : Nat) (v : Option DoubleWord) : (s.setResp v).lineAt k = s.lineAt k := rfl
@[simp] theorem vctAt_setResp (k : Nat) (v : Option DoubleWord) : (s.setResp v).vctAt k = s.vctAt k := rfl
@[simp] theorem classAt_setResp (k : IrqClass) (v : Option DoubleWord) : (s.setResp v).classAt k = s.classAt k := by cases k <;> rfl
@[simp] theorem out_setResp (k : IrqClass) (v : Option DoubleWord) : (s.setResp v).out k = s.out k := by cases k <;> rfl
@[simp] theorem clcAt_setInputs (k : Nat) (is : List Input) : (s.setInputs is).clcAt k = s.clcAt k := rfl
@[simp] theorem srlAt_setInputs (k : Nat) (is : List Input) : (s.setInputs is).srlAt k = s.srlAt k := rfl
@[simp] theorem srbAt_setInputs (k : Nat) (is : List Input) : (s.setInputs is).srbAt k = s.srbAt k := rfl
@[simp] theorem srbxAt_setInputs (k : Nat) (is : List Input) : (s.setInputs is).srbxAt k = s.srbxAt k := rfl
@[simp] theorem lineAt_setInputs (k : Nat) (is : List Input) : (s.setInputs is).lineAt k = s.lineAt k := rfl
@[simp] theorem vctAt_setInputs (k : Nat) (is : List Input) : (s.setInputs is).vctAt k = s.vctAt k := rfl
@[simp] theorem classAt_setInputs (k : IrqClass) (is : List Input) : (s.setInputs is).classAt k = s.classAt k := by cases k <;> rfl
@[simp] theorem out_setInputs (k : IrqClass) (is : List Input) : (s.setInputs is).out k = s.out k := by cases k <;> rfl
@[simp] theorem clcAt_emit (k : Nat) (e : Event) : (s.emit e).clcAt k = s.clcAt k := rfl
@[simp] theorem srlAt_emit (k : Nat) (e : Event) : (s.emit e).srlAt k = s.srlAt k := rfl
@[simp] theorem srbAt_emit (k : Nat) (e : Event) : (s.emit e).srbAt k = s.srbAt k := rfl
@[simp] theorem srbxAt_emit (k : Nat) (e : Event) : (s.emit e).srbxAt k = s.srbxAt k := rfl
@[simp] theorem lineAt_emit (k : Nat) (e : Event) : (s.emit e).lineAt k = s.lineAt k := rfl
@[simp] theorem vctAt_emit (k : Nat) (e : Event) : (s.emit e).vctAt k = s.vctAt k := rfl
@[simp] theorem classAt_emit (k : IrqClass) (e : Event) : (s.emit e).classAt k = s.classAt k := by cases k <;> rfl
@[simp] theorem out_emit (k : IrqClass) (e : Event) : (s.emit e).out k = s.out k := by cases k <;> rfl
@[simp] theorem clcAt_setClass (n : Nat) (k : IrqClass) (u : ArbClass) : (s.setClass k u).clcAt n = s.clcAt n := by cases k <;> rfl
@[simp] theorem srlAt_setClass (n : Nat) (k : IrqClass) (u : ArbClass) : (s.setClass k u).srlAt n = s.srlAt n := by cases k <;> rfl
@[simp] theorem srbAt_setClass (n : Nat) (k : IrqClass) (u : ArbClass) : (s.setClass k u).srbAt n = s.srbAt n := by cases k <;> rfl
@[simp] theorem srbxAt_setClass (n : Nat) (k : IrqClass) (u : ArbClass) : (s.setClass k u).srbxAt n = s.srbxAt n := by cases k <;> rfl
@[simp] theorem lineAt_setClass (n : Nat) (k : IrqClass) (u : ArbClass) : (s.setClass k u).lineAt n = s.lineAt n := by cases k <;> rfl
@[simp] theorem vctAt_setClass (n : Nat) (k : IrqClass) (u : ArbClass) : (s.setClass k u).vctAt n = s.vctAt n := by cases k <;> rfl

/-! ### A unit after its own update -/

theorem clcAt_setClc_self {i : Nat} (u : Clc) (h : i < s.clc.length) : (s.setClc i u).clcAt i = u := by
  simp [State.clcAt, State.setClc, h]
theorem clcAt_setClc_ne {i j : Nat} (u : Clc) (h : j ≠ i) : (s.setClc i u).clcAt j = s.clcAt j := by
  simp [State.clcAt, State.setClc, List.getElem?_set_ne (Ne.symm h)]
theorem srlAt_setSrl_self {i : Nat} (u : Srl) (h : i < s.srl.length) : (s.setSrl i u).srlAt i = u := by
  simp [State.srlAt, State.setSrl, h]
theorem srlAt_setSrl_ne {i j : Nat} (u : Srl) (h : j ≠ i) : (s.setSrl i u).srlAt j = s.srlAt j := by
  simp [State.srlAt, State.setSrl, List.getElem?_set_ne (Ne.symm h)]
theorem srbAt_setSrb_self {i : Nat} (u : Srb) (h : i < s.srb.length) : (s.setSrb i u).srbAt i = u := by
  simp [State.srbAt, State.setSrb, h]
theorem srbAt_setSrb_ne {i j : Nat} (u : Srb) (h : j ≠ i) : (s.setSrb i u).srbAt j = s.srbAt j := by
  simp [State.srbAt, State.setSrb, List.getElem?_set_ne (Ne.symm h)]
theorem srbxAt_setSrbx_self {i : Nat} (u : Srbx) (h : i < s.srbx.length) : (s.setSrbx i u).srbxAt i = u := by
  simp [State.srbxAt, State.setSrbx, h]
theorem srbxAt_setSrbx_ne {i j : Nat} (u : Srbx) (h : j ≠ i) : (s.setSrbx i u).srbxAt j = s.srbxAt j := by
  simp [State.srbxAt, State.setSrbx, List.getElem?_set_ne (Ne.symm h)]
theorem lineAt_setLine_self {i : Nat} (u : ArbLine) (h : i < s.lines.length) : (s.setLine i u).lineAt i = u := by
  simp [State.lineAt, State.setLine, h]
theorem lineAt_setLine_ne {i j : Nat} (u : ArbLine) (h : j ≠ i) : (s.setLine i u).lineAt j = s.lineAt j := by
  simp [State.lineAt, State.setLine, List.getElem?_set_ne (Ne.symm h)]
theorem vctAt_setVct_self {i : Nat} (u : Vct) (h : i < s.vct.length) : (s.setVct i u).vctAt i = u := by
  simp [State.vctAt, State.setVct, h]
theorem vctAt_setVct_ne {i j : Nat} (u : Vct) (h : j ≠ i) : (s.setVct i u).vctAt j = s.vctAt j := by
  simp [State.vctAt, State.setVct, List.getElem?_set_ne (Ne.symm h)]

end Sys2Proof.Machine
end

