-- ==== Sys2Proof/Laws/Arbiter.lean ====
section
/-! SUPPORT. What arbitration and `setLevel` can do (R150 to R153). -/

namespace Sys2Proof.Machine

/-! ### `best` -/

theorem eligible_eq_competes (s : State) (k : IrqClass) (i : Nat) : eligible s k i = competes s k i := by
  rw [Bool.eq_iff_iff]
  cases h' : (s.classAt k).maskBelowPriority <;> cases k <;> cases h : (s.lineAt i).isFastClass <;>
    simp [eligible, competes, ArbLine.cls, ArbClass.excludes, h, h']

theorem outranks_iff (s : State) (i j : Nat) (h : j < i) :
    standsBefore s i j = true ↔ outranks (s.lineAt i) (s.lineAt j) = true := by
  have hij : ¬ i < j := by omega
  simp [standsBefore, outranks, hij]

theorem standsBefore_of_not_outranks (s : State) (i j : Nat) (h : j < i)
    (hn : ¬ outranks (s.lineAt i) (s.lineAt j) = true) : standsBefore s j i = true := by
  simp only [outranks, Bool.or_eq_true, Bool.and_eq_true, decide_eq_true_eq, beq_iff_eq, not_or, not_and,
    Nat.not_lt] at hn
  simp only [standsBefore, decide_eq_true_eq]
  rcases Nat.lt_or_ge (s.lineAt i).priority.toNat (s.lineAt j).priority.toNat with hp | hp
  · exact .inl hp
  · have hpe : (s.lineAt j).priority = (s.lineAt i).priority := BitVec.eq_of_toNat_eq (by omega)
    refine .inr ⟨hpe, ?_⟩
    have hw := hn.2 hpe.symm
    rcases Nat.lt_or_ge (s.lineAt i).nestWeight.toNat (s.lineAt j).nestWeight.toNat with hw' | hw'
    · exact .inl hw'
    · exact .inr ⟨BitVec.eq_of_toNat_eq (by omega), h⟩

theorem standsBefore_trans (s : State) {i j l : Nat} (h₁ : standsBefore s i j = true)
    (h₂ : standsBefore s j l = true) : standsBefore s i l = true := by
  simp only [standsBefore, decide_eq_true_eq, BitVec.toNat_eq] at *
  omega

theorem standsBefore_irrefl (s : State) (i : Nat) : standsBefore s i i = false := by simp [standsBefore]

theorem standsBefore_asymm (s : State) {i j : Nat} (h : standsBefore s i j = true) : standsBefore s j i = false := by
  by_contra hc
  have := standsBefore_trans s h (by simpa using hc)
  simp [standsBefore_irrefl] at this

/-- The candidate after the lines below `n`: the one that stands first among those that compete. -/
theorem foldl_pickBetter (s : State) (k : IrqClass) (n : Nat) :
    ((List.range n).foldl (pickBetter s k) none = none → ∀ i < n, competes s k i = false)
      ∧ ∀ i, (List.range n).foldl (pickBetter s k) none = some i → i < n ∧ competes s k i = true
        ∧ ∀ j < n, competes s k j = true → j = i ∨ standsBefore s i j = true := by
  induction n with
  | zero => simp
  | succ n ih =>
    obtain ⟨ihn, ihs⟩ := ih
    rw [List.range_succ, List.foldl_append, List.foldl_cons, List.foldl_nil]
    generalize (List.range n).foldl (pickBetter s k) none = acc at ihn ihs
    simp only [pickBetter, eligible_eq_competes]
    by_cases he : competes s k n = true
    · simp only [he, if_true]
      cases acc with
      | none =>
        refine ⟨by simp, fun i hi => ?_⟩
        obtain rfl : n = i := by simpa using hi
        refine ⟨by omega, he, fun j hj hc => ?_⟩
        rcases Nat.lt_succ_iff_lt_or_eq.mp hj with h | h
        · simp [ihn rfl j h] at hc
        · exact .inl h
      | some m =>
        obtain ⟨hm, hcm, hbm⟩ := ihs m rfl
        by_cases ho : outranks (s.lineAt n) (s.lineAt m) = true
        · simp only [ho, if_true]
          refine ⟨by simp, fun i hi => ?_⟩
          obtain rfl : n = i := by simpa using hi
          have hnm := (outranks_iff s n m hm).mpr ho
          refine ⟨by omega, he, fun j hj hc => ?_⟩
          rcases Nat.lt_succ_iff_lt_or_eq.mp hj with h | h
          · rcases hbm j h hc with rfl | hb
            · exact .inr hnm
            · exact .inr (standsBefore_trans s hnm hb)
          · exact .inl h
        · simp only [ho]
          refine ⟨by simp, fun i hi => ?_⟩
          obtain rfl : m = i := by simpa using hi
          refine ⟨by omega, hcm, fun j hj hc => ?_⟩
          rcases Nat.lt_succ_iff_lt_or_eq.mp hj with h | h
          · exact hbm j h hc
          · subst h; exact .inr (standsBefore_of_not_outranks s j m hm ho)
    · have he' : competes s k n = false := by simpa using he
      simp only [he', Bool.false_eq_true, if_false]
      refine ⟨fun h i hi => ?_, fun i hi => ?_⟩
      · rcases Nat.lt_succ_iff_lt_or_eq.mp hi with h' | h'
        · exact ihn h i h'
        · subst h'; exact he'
      · obtain ⟨h1, h2, h3⟩ := ihs i hi
        refine ⟨by omega, h2, fun j hj hc => ?_⟩
        rcases Nat.lt_succ_iff_lt_or_eq.mp hj with h' | h'
        · exact h3 j h' hc
        · subst h'; simp [he'] at hc

/-- `best` answers what R151 asks for. -/
theorem best_wins (s : State) (k : IrqClass) : Wins s k (best s k) := by
  obtain ⟨hn, hs⟩ := foldl_pickBetter s k s.cfg.nLINES
  refine ⟨hn, fun h => ?_⟩
  obtain ⟨i, hi⟩ := Option.ne_none_iff_exists'.mp h
  rw [hi]
  exact hs i hi

/-- `Wins` reads the line table, the number of lines and the filter only. -/
theorem wins_congr {s t : State} {k : IrqClass} {w : Option Nat} (hc : t.cfg = s.cfg)
    (hl : ∀ i < s.cfg.nLINES, t.lineAt i = s.lineAt i)
    (hm : (t.classAt k).maskBelowPriority = (s.classAt k).maskBelowPriority) (h : Wins s k w) : Wins t k w := by
  have hcomp : ∀ i < s.cfg.nLINES, competes t k i = competes s k i := fun i hi => by
    simp only [competes, hl i hi, hm]
  refine ⟨fun hw i hi => ?_, fun hw => ?_⟩
  · rw [hc] at hi; rw [hcomp i hi]; exact h.1 hw i hi
  · obtain ⟨h1, h2, h3⟩ := h.2 hw
    rw [StandsFirst, hc]
    refine ⟨h1, by rw [hcomp _ h1]; exact h2, fun j hj hcj => ?_⟩
    have := h3 j hj (by rw [← hcomp j hj]; exact hcj)
    simpa only [standsBefore, hl _ h1, hl j hj] using this

/-! ### `select`, `emitEdge`, `arbitrate`, `rearbitrate`, `setLevel`, `takeLine`, `consumeLine`, `ackLine`: what they leave alone -/

@[simp] theorem select_cfg (k : IrqClass) (i : Option Nat) (s : State) : (select k i s).cfg = s.cfg := by simp [select]
@[simp] theorem select_clc (k : IrqClass) (i : Option Nat) (s : State) : (select k i s).clc = s.clc := by simp [select]
@[simp] theorem select_srl (k : IrqClass) (i : Option Nat) (s : State) : (select k i s).srl = s.srl := by simp [select]
@[simp] theorem select_srb (k : IrqClass) (i : Option Nat) (s : State) : (select k i s).srb = s.srb := by simp [select]
@[simp] theorem select_srbx (k : IrqClass) (i : Option Nat) (s : State) : (select k i s).srbx = s.srbx := by simp [select]
@[simp] theorem select_vct (k : IrqClass) (i : Option Nat) (s : State) : (select k i s).vct = s.vct := by simp [select]
@[simp] theorem select_fault (k : IrqClass) (i : Option Nat) (s : State) : (select k i s).fault = s.fault := by simp [select]
@[simp] theorem select_now (k : IrqClass) (i : Option Nat) (s : State) : (select k i s).now = s.now := by simp [select]
@[simp] theorem select_resp (k : IrqClass) (i : Option Nat) (s : State) : (select k i s).resp = s.resp := by simp [select]
@[simp] theorem select_inputs (k : IrqClass) (i : Option Nat) (s : State) : (select k i s).inputs = s.inputs := by simp [select]
@[simp] theorem select_clcAt (k : IrqClass) (i : Option Nat) (s : State) (c' : Nat) : (select k i s).clcAt c' = s.clcAt c' := by simp [State.clcAt]
@[simp] theorem select_srlAt (k : IrqClass) (i : Option Nat) (s : State) (r' : Nat) : (select k i s).srlAt r' = s.srlAt r' := by simp [State.srlAt]
@[simp] theorem select_srbAt (k : IrqClass) (i : Option Nat) (s : State) (b' : Nat) : (select k i s).srbAt b' = s.srbAt b' := by simp [State.srbAt]
@[simp] theorem select_srbxAt (k : IrqClass) (i : Option Nat) (s : State) (x' : Nat) : (select k i s).srbxAt x' = s.srbxAt x' := by simp [State.srbxAt]
@[simp] theorem select_vctAt (k : IrqClass) (i : Option Nat) (s : State) (t' : Nat) : (select k i s).vctAt t' = s.vctAt t' := by simp [State.vctAt]

@[simp] theorem emitEdge_cfg (k : IrqClass) (b : Bool) (s : State) : (emitEdge k b s).cfg = s.cfg := by unfold emitEdge; split <;> simp
@[simp] theorem emitEdge_clc (k : IrqClass) (b : Bool) (s : State) : (emitEdge k b s).clc = s.clc := by unfold emitEdge; split <;> simp
@[simp] theorem emitEdge_srl (k : IrqClass) (b : Bool) (s : State) : (emitEdge k b s).srl = s.srl := by unfold emitEdge; split <;> simp
@[simp] theorem emitEdge_srb (k : IrqClass) (b : Bool) (s : State) : (emitEdge k b s).srb = s.srb := by unfold emitEdge; split <;> simp
@[simp] theorem emitEdge_srbx (k : IrqClass) (b : Bool) (s : State) : (emitEdge k b s).srbx = s.srbx := by unfold emitEdge; split <;> simp
@[simp] theorem emitEdge_vct (k : IrqClass) (b : Bool) (s : State) : (emitEdge k b s).vct = s.vct := by unfold emitEdge; split <;> simp
@[simp] theorem emitEdge_fault (k : IrqClass) (b : Bool) (s : State) : (emitEdge k b s).fault = s.fault := by unfold emitEdge; split <;> simp
@[simp] theorem emitEdge_now (k : IrqClass) (b : Bool) (s : State) : (emitEdge k b s).now = s.now := by unfold emitEdge; split <;> simp
@[simp] theorem emitEdge_resp (k : IrqClass) (b : Bool) (s : State) : (emitEdge k b s).resp = s.resp := by unfold emitEdge; split <;> simp
@[simp] theorem emitEdge_inputs (k : IrqClass) (b : Bool) (s : State) : (emitEdge k b s).inputs = s.inputs := by unfold emitEdge; split <;> simp
@[simp] theorem emitEdge_clcAt (k : IrqClass) (b : Bool) (s : State) (c' : Nat) : (emitEdge k b s).clcAt c' = s.clcAt c' := by simp [State.clcAt]
@[simp] theorem emitEdge_srlAt (k : IrqClass) (b : Bool) (s : State) (r' : Nat) : (emitEdge k b s).srlAt r' = s.srlAt r' := by simp [State.srlAt]
@[simp] theorem emitEdge_srbAt (k : IrqClass) (b : Bool) (s : State) (b' : Nat) : (emitEdge k b s).srbAt b' = s.srbAt b' := by simp [State.srbAt]
@[simp] theorem emitEdge_srbxAt (k : IrqClass) (b : Bool) (s : State) (x' : Nat) : (emitEdge k b s).srbxAt x' = s.srbxAt x' := by simp [State.srbxAt]
@[simp] theorem emitEdge_vctAt (k : IrqClass) (b : Bool) (s : State) (t' : Nat) : (emitEdge k b s).vctAt t' = s.vctAt t' := by simp [State.vctAt]

@[simp] theorem arbitrate_cfg (k : IrqClass) (s : State) : (arbitrate k s).cfg = s.cfg := by simp [arbitrate]
@[simp] theorem arbitrate_clc (k : IrqClass) (s : State) : (arbitrate k s).clc = s.clc := by simp [arbitrate]
@[simp] theorem arbitrate_srl (k : IrqClass) (s : State) : (arbitrate k s).srl = s.srl := by simp [arbitrate]
@[simp] theorem arbitrate_srb (k : IrqClass) (s : State) : (arbitrate k s).srb = s.srb := by simp [arbitrate]
@[simp] theorem arbitrate_srbx (k : IrqClass) (s : State) : (arbitrate k s).srbx = s.srbx := by simp [arbitrate]
@[simp] theorem arbitrate_vct (k : IrqClass) (s : State) : (arbitrate k s).vct = s.vct := by simp [arbitrate]
@[simp] theorem arbitrate_fault (k : IrqClass) (s : State) : (arbitrate k s).fault = s.fault := by simp [arbitrate]
@[simp] theorem arbitrate_now (k : IrqClass) (s : State) : (arbitrate k s).now = s.now := by simp [arbitrate]
@[simp] theorem arbitrate_resp (k : IrqClass) (s : State) : (arbitrate k s).resp = s.resp := by simp [arbitrate]
@[simp] theorem arbitrate_inputs (k : IrqClass) (s : State) : (arbitrate k s).inputs = s.inputs := by simp [arbitrate]
@[simp] theorem arbitrate_clcAt (k : IrqClass) (s : State) (c' : Nat) : (arbitrate k s).clcAt c' = s.clcAt c' := by simp [State.clcAt]
@[simp] theorem arbitrate_srlAt (k : IrqClass) (s : State) (r' : Nat) : (arbitrate k s).srlAt r' = s.srlAt r' := by simp [State.srlAt]
@[simp] theorem arbitrate_srbAt (k : IrqClass) (s : State) (b' : Nat) : (arbitrate k s).srbAt b' = s.srbAt b' := by simp [State.srbAt]
@[simp] theorem arbitrate_srbxAt (k : IrqClass) (s : State) (x' : Nat) : (arbitrate k s).srbxAt x' = s.srbxAt x' := by simp [State.srbxAt]
@[simp] theorem arbitrate_vctAt (k : IrqClass) (s : State) (t' : Nat) : (arbitrate k s).vctAt t' = s.vctAt t' := by simp [State.vctAt]

@[simp] theorem rearbitrate_cfg (k : IrqClass) (s : State) : (rearbitrate k s).cfg = s.cfg := by unfold rearbitrate; split <;> simp
@[simp] theorem rearbitrate_clc (k : IrqClass) (s : State) : (rearbitrate k s).clc = s.clc := by unfold rearbitrate; split <;> simp
@[simp] theorem rearbitrate_srl (k : IrqClass) (s : State) : (rearbitrate k s).srl = s.srl := by unfold rearbitrate; split <;> simp
@[simp] theorem rearbitrate_srb (k : IrqClass) (s : State) : (rearbitrate k s).srb = s.srb := by unfold rearbitrate; split <;> simp
@[simp] theorem rearbitrate_srbx (k : IrqClass) (s : State) : (rearbitrate k s).srbx = s.srbx := by unfold rearbitrate; split <;> simp
@[simp] theorem rearbitrate_vct (k : IrqClass) (s : State) : (rearbitrate k s).vct = s.vct := by unfold rearbitrate; split <;> simp
@[simp] theorem rearbitrate_fault (k : IrqClass) (s : State) : (rearbitrate k s).fault = s.fault := by unfold rearbitrate; split <;> simp
@[simp] theorem rearbitrate_now (k : IrqClass) (s : State) : (rearbitrate k s).now = s.now := by unfold rearbitrate; split <;> simp
@[simp] theorem rearbitrate_resp (k : IrqClass) (s : State) : (rearbitrate k s).resp = s.resp := by unfold rearbitrate; split <;> simp
@[simp] theorem rearbitrate_inputs (k : IrqClass) (s : State) : (rearbitrate k s).inputs = s.inputs := by unfold rearbitrate; split <;> simp
@[simp] theorem rearbitrate_clcAt (k : IrqClass) (s : State) (c' : Nat) : (rearbitrate k s).clcAt c' = s.clcAt c' := by simp [State.clcAt]
@[simp] theorem rearbitrate_srlAt (k : IrqClass) (s : State) (r' : Nat) : (rearbitrate k s).srlAt r' = s.srlAt r' := by simp [State.srlAt]
@[simp] theorem rearbitrate_srbAt (k : IrqClass) (s : State) (b' : Nat) : (rearbitrate k s).srbAt b' = s.srbAt b' := by simp [State.srbAt]
@[simp] theorem rearbitrate_srbxAt (k : IrqClass) (s : State) (x' : Nat) : (rearbitrate k s).srbxAt x' = s.srbxAt x' := by simp [State.srbxAt]
@[simp] theorem rearbitrate_vctAt (k : IrqClass) (s : State) (t' : Nat) : (rearbitrate k s).vctAt t' = s.vctAt t' := by simp [State.vctAt]

@[simp] theorem setLevel_cfg (id : Nat) (cls : IrqClass) (p n : Byte) (l : Bool) (s : State) : (setLevel id cls p n l s).cfg = s.cfg := by simp [setLevel]
@[simp] theorem setLevel_clc (id : Nat) (cls : IrqClass) (p n : Byte) (l : Bool) (s : State) : (setLevel id cls p n l s).clc = s.clc := by simp [setLevel]
@[simp] theorem setLevel_srl (id : Nat) (cls : IrqClass) (p n : Byte) (l : Bool) (s : State) : (setLevel id cls p n l s).srl = s.srl := by simp [setLevel]
@[simp] theorem setLevel_srb (id : Nat) (cls : IrqClass) (p n : Byte) (l : Bool) (s : State) : (setLevel id cls p n l s).srb = s.srb := by simp [setLevel]
@[simp] theorem setLevel_srbx (id : Nat) (cls : IrqClass) (p n : Byte) (l : Bool) (s : State) : (setLevel id cls p n l s).srbx = s.srbx := by simp [setLevel]
@[simp] theorem setLevel_vct (id : Nat) (cls : IrqClass) (p n : Byte) (l : Bool) (s : State) : (setLevel id cls p n l s).vct = s.vct := by simp [setLevel]
@[simp] theorem setLevel_fault (id : Nat) (cls : IrqClass) (p n : Byte) (l : Bool) (s : State) : (setLevel id cls p n l s).fault = s.fault := by simp [setLevel]
@[simp] theorem setLevel_now (id : Nat) (cls : IrqClass) (p n : Byte) (l : Bool) (s : State) : (setLevel id cls p n l s).now = s.now := by simp [setLevel]
@[simp] theorem setLevel_resp (id : Nat) (cls : IrqClass) (p n : Byte) (l : Bool) (s : State) : (setLevel id cls p n l s).resp = s.resp := by simp [setLevel]
@[simp] theorem setLevel_inputs (id : Nat) (cls : IrqClass) (p n : Byte) (l : Bool) (s : State) : (setLevel id cls p n l s).inputs = s.inputs := by simp [setLevel]
@[simp] theorem setLevel_clcAt (id : Nat) (cls : IrqClass) (p n : Byte) (l : Bool) (s : State) (c' : Nat) : (setLevel id cls p n l s).clcAt c' = s.clcAt c' := by simp [State.clcAt]
@[simp] theorem setLevel_srlAt (id : Nat) (cls : IrqClass) (p n : Byte) (l : Bool) (s : State) (r' : Nat) : (setLevel id cls p n l s).srlAt r' = s.srlAt r' := by simp [State.srlAt]
@[simp] theorem setLevel_srbAt (id : Nat) (cls : IrqClass) (p n : Byte) (l : Bool) (s : State) (b' : Nat) : (setLevel id cls p n l s).srbAt b' = s.srbAt b' := by simp [State.srbAt]
@[simp] theorem setLevel_srbxAt (id : Nat) (cls : IrqClass) (p n : Byte) (l : Bool) (s : State) (x' : Nat) : (setLevel id cls p n l s).srbxAt x' = s.srbxAt x' := by simp [State.srbxAt]
@[simp] theorem setLevel_vctAt (id : Nat) (cls : IrqClass) (p n : Byte) (l : Bool) (s : State) (t' : Nat) : (setLevel id cls p n l s).vctAt t' = s.vctAt t' := by simp [State.vctAt]

@[simp] theorem takeLine_cfg (k : IrqClass) (s : State) : (takeLine k s).cfg = s.cfg := by unfold takeLine; split <;> simp
@[simp] theorem takeLine_clc (k : IrqClass) (s : State) : (takeLine k s).clc = s.clc := by unfold takeLine; split <;> simp
@[simp] theorem takeLine_srl (k : IrqClass) (s : State) : (takeLine k s).srl = s.srl := by unfold takeLine; split <;> simp
@[simp] theorem takeLine_srb (k : IrqClass) (s : State) : (takeLine k s).srb = s.srb := by unfold takeLine; split <;> simp
@[simp] theorem takeLine_srbx (k : IrqClass) (s : State) : (takeLine k s).srbx = s.srbx := by unfold takeLine; split <;> simp
@[simp] theorem takeLine_vct (k : IrqClass) (s : State) : (takeLine k s).vct = s.vct := by unfold takeLine; split <;> simp
@[simp] theorem takeLine_fault (k : IrqClass) (s : State) : (takeLine k s).fault = s.fault := by unfold takeLine; split <;> simp
@[simp] theorem takeLine_now (k : IrqClass) (s : State) : (takeLine k s).now = s.now := by unfold takeLine; split <;> simp
@[simp] theorem takeLine_resp (k : IrqClass) (s : State) : (takeLine k s).resp = s.resp := by unfold takeLine; split <;> simp
@[simp] theorem takeLine_inputs (k : IrqClass) (s : State) : (takeLine k s).inputs = s.inputs := by unfold takeLine; split <;> simp
@[simp] theorem takeLine_clcAt (k : IrqClass) (s : State) (c' : Nat) : (takeLine k s).clcAt c' = s.clcAt c' := by simp [State.clcAt]
@[simp] theorem takeLine_srlAt (k : IrqClass) (s : State) (r' : Nat) : (takeLine k s).srlAt r' = s.srlAt r' := by simp [State.srlAt]
@[simp] theorem takeLine_srbAt (k : IrqClass) (s : State) (b' : Nat) : (takeLine k s).srbAt b' = s.srbAt b' := by simp [State.srbAt]
@[simp] theorem takeLine_srbxAt (k : IrqClass) (s : State) (x' : Nat) : (takeLine k s).srbxAt x' = s.srbxAt x' := by simp [State.srbxAt]
@[simp] theorem takeLine_vctAt (k : IrqClass) (s : State) (t' : Nat) : (takeLine k s).vctAt t' = s.vctAt t' := by simp [State.vctAt]

@[simp] theorem consumeLine_cfg (k : IrqClass) (i : Nat) (s : State) : (consumeLine k i s).cfg = s.cfg := by unfold consumeLine; split <;> simp
@[simp] theorem consumeLine_clc (k : IrqClass) (i : Nat) (s : State) : (consumeLine k i s).clc = s.clc := by unfold consumeLine; split <;> simp
@[simp] theorem consumeLine_srl (k : IrqClass) (i : Nat) (s : State) : (consumeLine k i s).srl = s.srl := by unfold consumeLine; split <;> simp
@[simp] theorem consumeLine_srb (k : IrqClass) (i : Nat) (s : State) : (consumeLine k i s).srb = s.srb := by unfold consumeLine; split <;> simp
@[simp] theorem consumeLine_srbx (k : IrqClass) (i : Nat) (s : State) : (consumeLine k i s).srbx = s.srbx := by unfold consumeLine; split <;> simp
@[simp] theorem consumeLine_vct (k : IrqClass) (i : Nat) (s : State) : (consumeLine k i s).vct = s.vct := by unfold consumeLine; split <;> simp
@[simp] theorem consumeLine_fault (k : IrqClass) (i : Nat) (s : State) : (consumeLine k i s).fault = s.fault := by unfold consumeLine; split <;> simp
@[simp] theorem consumeLine_now (k : IrqClass) (i : Nat) (s : State) : (consumeLine k i s).now = s.now := by unfold consumeLine; split <;> simp
@[simp] theorem consumeLine_resp (k : IrqClass) (i : Nat) (s : State) : (consumeLine k i s).resp = s.resp := by unfold consumeLine; split <;> simp
@[simp] theorem consumeLine_inputs (k : IrqClass) (i : Nat) (s : State) : (consumeLine k i s).inputs = s.inputs := by unfold consumeLine; split <;> simp
@[simp] theorem consumeLine_clcAt (k : IrqClass) (i : Nat) (s : State) (c' : Nat) : (consumeLine k i s).clcAt c' = s.clcAt c' := by simp [State.clcAt]
@[simp] theorem consumeLine_srlAt (k : IrqClass) (i : Nat) (s : State) (r' : Nat) : (consumeLine k i s).srlAt r' = s.srlAt r' := by simp [State.srlAt]
@[simp] theorem consumeLine_srbAt (k : IrqClass) (i : Nat) (s : State) (b' : Nat) : (consumeLine k i s).srbAt b' = s.srbAt b' := by simp [State.srbAt]
@[simp] theorem consumeLine_srbxAt (k : IrqClass) (i : Nat) (s : State) (x' : Nat) : (consumeLine k i s).srbxAt x' = s.srbxAt x' := by simp [State.srbxAt]
@[simp] theorem consumeLine_vctAt (k : IrqClass) (i : Nat) (s : State) (t' : Nat) : (consumeLine k i s).vctAt t' = s.vctAt t' := by simp [State.vctAt]

@[simp] theorem ackLine_cfg (k : IrqClass) (i : Nat) (s : State) : (ackLine k i s).cfg = s.cfg := by simp [ackLine]
@[simp] theorem ackLine_clc (k : IrqClass) (i : Nat) (s : State) : (ackLine k i s).clc = s.clc := by simp [ackLine]
@[simp] theorem ackLine_srl (k : IrqClass) (i : Nat) (s : State) : (ackLine k i s).srl = s.srl := by simp [ackLine]
@[simp] theorem ackLine_srb (k : IrqClass) (i : Nat) (s : State) : (ackLine k i s).srb = s.srb := by simp [ackLine]
@[simp] theorem ackLine_srbx (k : IrqClass) (i : Nat) (s : State) : (ackLine k i s).srbx = s.srbx := by simp [ackLine]
@[simp] theorem ackLine_vct (k : IrqClass) (i : Nat) (s : State) : (ackLine k i s).vct = s.vct := by simp [ackLine]
@[simp] theorem ackLine_fault (k : IrqClass) (i : Nat) (s : State) : (ackLine k i s).fault = s.fault := by simp [ackLine]
@[simp] theorem ackLine_now (k : IrqClass) (i : Nat) (s : State) : (ackLine k i s).now = s.now := by simp [ackLine]
@[simp] theorem ackLine_resp (k : IrqClass) (i : Nat) (s : State) : (ackLine k i s).resp = s.resp := by simp [ackLine]
@[simp] theorem ackLine_inputs (k : IrqClass) (i : Nat) (s : State) : (ackLine k i s).inputs = s.inputs := by simp [ackLine]
@[simp] theorem ackLine_clcAt (k : IrqClass) (i : Nat) (s : State) (c' : Nat) : (ackLine k i s).clcAt c' = s.clcAt c' := by simp [State.clcAt]
@[simp] theorem ackLine_srlAt (k : IrqClass) (i : Nat) (s : State) (r' : Nat) : (ackLine k i s).srlAt r' = s.srlAt r' := by simp [State.srlAt]
@[simp] theorem ackLine_srbAt (k : IrqClass) (i : Nat) (s : State) (b' : Nat) : (ackLine k i s).srbAt b' = s.srbAt b' := by simp [State.srbAt]
@[simp] theorem ackLine_srbxAt (k : IrqClass) (i : Nat) (s : State) (x' : Nat) : (ackLine k i s).srbxAt x' = s.srbxAt x' := by simp [State.srbxAt]
@[simp] theorem ackLine_vctAt (k : IrqClass) (i : Nat) (s : State) (t' : Nat) : (ackLine k i s).vctAt t' = s.vctAt t' := by simp [State.vctAt]

/-! ### What they do -/

@[simp] theorem select_lines (k : IrqClass) (i : Option Nat) (s : State) : (select k i s).lines = s.lines := by
  simp [select]
@[simp] theorem select_trace (k : IrqClass) (i : Option Nat) (s : State) : (select k i s).trace = s.trace := by
  simp [select]
@[simp] theorem select_classAt_self (k : IrqClass) (i : Option Nat) (s : State) :
    (select k i s).classAt k = { s.classAt k with selectedLineId := i } := by simp [select]
theorem select_classAt_ne {k k' : IrqClass} (i : Option Nat) (s : State) (h : k' ≠ k) :
    (select k i s).classAt k' = s.classAt k' := by simp [select, classAt_setClass_ne s _ h]

@[simp] theorem emitEdge_lines (k : IrqClass) (b : Bool) (s : State) : (emitEdge k b s).lines = s.lines := by
  unfold emitEdge; split <;> simp
@[simp] theorem emitEdge_classAt (k k' : IrqClass) (b : Bool) (s : State) :
    (emitEdge k b s).classAt k' = s.classAt k' := by unfold emitEdge; split <;> simp
@[simp] theorem emitEdge_out (k k' : IrqClass) (b : Bool) (s : State) :
    (emitEdge k b s).out k' = s.out k' := by simp [State.out]

@[simp] theorem arbitrate_lines (k : IrqClass) (s : State) : (arbitrate k s).lines = s.lines := by simp [arbitrate]
@[simp] theorem arbitrate_lineAt (k : IrqClass) (s : State) (i : Nat) : (arbitrate k s).lineAt i = s.lineAt i := by
  simp [State.lineAt]
@[simp] theorem arbitrate_classAt_self (k : IrqClass) (s : State) :
    (arbitrate k s).classAt k = { s.classAt k with selectedLineId := best s k } := by simp [arbitrate]
theorem arbitrate_classAt_ne {k k' : IrqClass} (s : State) (h : k' ≠ k) :
    (arbitrate k s).classAt k' = s.classAt k' := by simp [arbitrate, select_classAt_ne _ _ h]

/-- `ARBITRATE(k)` emits one edge if `OUT[k]` changed, and nothing else (R152). -/
theorem arbitrate_trace (k : IrqClass) (s : State) :
    (arbitrate k s).trace = s.trace ++ edgeBetween s (arbitrate k s) k := by
  have ho : (arbitrate k s).out k = (select k (best s k) s).out k := by simp [arbitrate]
  simp only [edgeBetween, ho]
  unfold arbitrate emitEdge
  split <;> simp_all

@[simp] theorem rearbitrate_lines (k : IrqClass) (s : State) : (rearbitrate k s).lines = s.lines := by
  unfold rearbitrate; split <;> simp
@[simp] theorem rearbitrate_lineAt (k : IrqClass) (s : State) (i : Nat) :
    (rearbitrate k s).lineAt i = s.lineAt i := by simp [State.lineAt]
theorem rearbitrate_classAt_ne {k k' : IrqClass} (s : State) (h : k' ≠ k) :
    (rearbitrate k s).classAt k' = s.classAt k' := by
  unfold rearbitrate; split <;> simp [arbitrate_classAt_ne _ h]
@[simp] theorem rearbitrate_mask (k k' : IrqClass) (s : State) :
    ((rearbitrate k s).classAt k').maskBelowPriority = (s.classAt k').maskBelowPriority := by
  by_cases h : k' = k
  · subst h; unfold rearbitrate; split <;> simp
  · rw [rearbitrate_classAt_ne s h]
@[simp] theorem rearbitrate_locked (k k' : IrqClass) (s : State) :
    ((rearbitrate k s).classAt k').lockedLineId = (s.classAt k').lockedLineId := by
  by_cases h : k' = k
  · subst h; unfold rearbitrate; split <;> simp
  · rw [rearbitrate_classAt_ne s h]

/-- While Locked nothing is arbitrated (R153); otherwise the winner is selected (R152). -/
theorem rearbitrate_spec (k : IrqClass) (s : State) : Rearbitrated s (rearbitrate k s) k := by
  refine ⟨by simp, ?_⟩
  unfold rearbitrate
  by_cases h : (s.classAt k).lockedLineId = none
  · simp only [h, if_true, arbitrate_classAt_self]
    exact wins_congr (s := s) (by simp) (by simp) (by simp) (best_wins s k)
  · simp [h]

theorem rearbitrate_trace (k : IrqClass) (s : State) :
    (rearbitrate k s).trace = s.trace ++ edgeBetween s (rearbitrate k s) k := by
  unfold rearbitrate
  split
  · exact arbitrate_trace k s
  · simp [edgeBetween]

theorem out_congr {s t : State} {k : IrqClass} (h : t.classAt k = s.classAt k) : t.out k = s.out k := by
  simp [State.out, h]

theorem fast_ne_normal : IrqClass.fast ≠ .normal := by decide
theorem normal_ne_fast : IrqClass.normal ≠ .fast := by decide

/-- `ARB.SETLEVEL` writes one entry of the line table (R153). -/
@[simp] theorem setLevel_lines (id : Nat) (cls : IrqClass) (p n : Byte) (l : Bool) (s : State) :
    (setLevel id cls p n l s).lines = s.lines.set id (newLine s.cfg.nestEnabled cls p n l) := by simp [setLevel]

theorem setLevel_lineAt (id : Nat) (cls : IrqClass) (p n : Byte) (l : Bool) (s : State) (i : Nat)
    (hi : i < s.lines.length) :
    (setLevel id cls p n l s).lineAt i
      = if id = i then newLine s.cfg.nestEnabled cls p n l else s.lineAt i := by
  by_cases h : id = i
  · subst h; simp [State.lineAt, hi]
  · simp [State.lineAt, h]

@[simp] theorem setLevel_mask (id : Nat) (cls : IrqClass) (p n : Byte) (l : Bool) (s : State) (k : IrqClass) :
    ((setLevel id cls p n l s).classAt k).maskBelowPriority = (s.classAt k).maskBelowPriority := by simp [setLevel]

/-- `ARB.SETLEVEL` re-selects each class that is not Locked (R153). -/
theorem setLevel_spec (id : Nat) (cls : IrqClass) (p n : Byte) (l : Bool) (s : State) (k : IrqClass) :
    Rearbitrated s (setLevel id cls p n l s) k := by
  unfold setLevel
  generalize hs1 : s.setLine id (newLine s.cfg.nestEnabled cls p n l) = s1
  have hk1 : s1.classAt k = s.classAt k := by subst hs1; simp
  cases k with
  | normal =>
    obtain ⟨h1, h2⟩ := rearbitrate_spec .normal s1
    refine ⟨by rw [rearbitrate_locked, h1, hk1], ?_⟩
    rw [rearbitrate_classAt_ne _ normal_ne_fast]
    rw [hk1] at h2
    split
    · rename_i hl
      simp only [hl, if_true] at h2
      exact wins_congr (s := rearbitrate .normal s1) (by simp) (by simp) (by simp) h2
    · rename_i hl
      simpa only [hl, if_false] using h2
  | fast =>
    obtain ⟨h1, h2⟩ := rearbitrate_spec .fast (rearbitrate .normal s1)
    have hk2 : (rearbitrate .normal s1).classAt .fast = s.classAt .fast := by
      rw [rearbitrate_classAt_ne _ fast_ne_normal, hk1]
    rw [hk2] at h1 h2
    exact ⟨h1, h2⟩

/-- `ARB.SETLEVEL` emits the edges of the outputs that changed, normal first (R153). -/
theorem setLevel_trace (id : Nat) (cls : IrqClass) (p n : Byte) (l : Bool) (s : State) :
    (setLevel id cls p n l s).trace
      = s.trace ++ (edgeBetween s (setLevel id cls p n l s) .normal
        ++ edgeBetween s (setLevel id cls p n l s) .fast) := by
  unfold setLevel
  generalize hs1 : s.setLine id (newLine s.cfg.nestEnabled cls p n l) = s1
  have ht : s1.trace = s.trace := by subst hs1; simp
  have ho : ∀ k, s1.out k = s.out k := fun k => by subst hs1; simp
  have hn : (rearbitrate .fast (rearbitrate .normal s1)).out .normal = (rearbitrate .normal s1).out .normal :=
    out_congr (rearbitrate_classAt_ne _ normal_ne_fast)
  have hf : (rearbitrate .normal s1).out .fast = s1.out .fast := out_congr (rearbitrate_classAt_ne _ fast_ne_normal)
  rw [rearbitrate_trace, rearbitrate_trace, ht, List.append_assoc]
  simp only [edgeBetween, hn, hf, ho]

/-! ### Taking and acknowledging -/

theorem takeLine_lines (k : IrqClass) (s : State) : (takeLine k s).lines = s.lines := by
  unfold takeLine; split <;> simp

/-- Only the class taken changes (R158). -/
theorem takeLine_classAt_ne {k k' : IrqClass} (s : State) (h : k' ≠ k) :
    (takeLine k s).classAt k' = s.classAt k' := by
  unfold takeLine; split <;> simp [classAt_setClass_ne s _ h]

/-- `ARB.TAKE` (R154): Pending(i) becomes Locked(i) with a falling edge; Idle and Locked stay. -/
theorem takeLine_spec (k : IrqClass) (s : State) :
    (∃ i, (s.classAt k).state = .pending i
        ∧ (takeLine k s).classAt k = { s.classAt k with selectedLineId := none, lockedLineId := some i }
        ∧ (takeLine k s).trace = s.trace ++ [.outEdge k false])
      ∨ ((∀ i, (s.classAt k).state ≠ .pending i) ∧ takeLine k s = s) := by
  unfold takeLine
  split
  · rename_i h; exact .inr ⟨by simp [h], rfl⟩
  · rename_i h; exact .inr ⟨by simp [h], rfl⟩
  · rename_i i h; exact .inl ⟨i, h, by simp, by simp⟩

@[simp] theorem consumeLine_classAt (k k' : IrqClass) (i : Nat) (s : State) :
    (consumeLine k i s).classAt k' = s.classAt k' := by unfold consumeLine; split <;> simp
@[simp] theorem consumeLine_trace (k : IrqClass) (i : Nat) (s : State) : (consumeLine k i s).trace = s.trace := by
  unfold consumeLine; split <;> simp

theorem ackLine_lines (k : IrqClass) (i : Nat) (s : State) :
    (ackLine k i s).lines = (consumeLine k i s).lines := by simp [ackLine]

theorem ackLine_classAt_ne {k k' : IrqClass} (i : Nat) (s : State) (h : k' ≠ k) :
    (ackLine k i s).classAt k' = s.classAt k' := by
  simp [ackLine, arbitrate_classAt_ne _ h, classAt_setClass_ne _ _ h]

/-- `ARB.ACK` (R155): the lock is released and the winner selected at once. -/
theorem ackLine_spec (k : IrqClass) (i : Nat) (s : State) :
    ((ackLine k i s).classAt k).lockedLineId = none
      ∧ ((ackLine k i s).classAt k).maskBelowPriority = (s.classAt k).maskBelowPriority
      ∧ Wins (ackLine k i s) k ((ackLine k i s).classAt k).selectedLineId := by
  refine ⟨by simp [ackLine], by simp [ackLine], ?_⟩
  have h : ∀ s2 : State, Wins (arbitrate k s2) k ((arbitrate k s2).classAt k).selectedLineId := fun s2 => by
    rw [arbitrate_classAt_self]
    exact wins_congr (s := s2) (by simp) (by simp) (by simp) (best_wins s2 k)
  exact h _

end Sys2Proof.Machine
end

