-- ==== Sys2Proof/Laws/Decode.lean ====
section
/-! SUPPORT. The fields of an encoded command (R81, R82). -/

namespace Sys2Proof

/-! ### The fields of an encoded command word -/

@[simp] theorem cmdKind_cmdWord (k op sub idx : Nat) : cmdKind (cmdWord k op sub idx) = k % 16 := by
  have : (cmdWord k op sub idx).extractLsb' 28 4 = BitVec.ofNat 4 k := by
    refine BitVec.eq_of_getLsbD_eq fun i hi => ?_
    rw [BitVec.getLsbD_extractLsb', cmdWord, BitVec.getLsbD_append, if_neg (by omega), BitVec.getLsbD_append,
      if_neg (by omega), decide_eq_true hi, Bool.true_and]
    congr 1
    omega
  simp [cmdKind, this]

@[simp] theorem cmdOp_cmdWord (k op sub idx : Nat) : cmdOp (cmdWord k op sub idx) = op % 16 := by
  have : (cmdWord k op sub idx).extractLsb' 24 4 = BitVec.ofNat 4 op := by
    refine BitVec.eq_of_getLsbD_eq fun i hi => ?_
    rw [BitVec.getLsbD_extractLsb', cmdWord, BitVec.getLsbD_append, if_neg (by omega), BitVec.getLsbD_append,
      if_pos (by omega), decide_eq_true hi, Bool.true_and]
    congr 1
    omega
  simp [cmdOp, this]

@[simp] theorem cmdSub_cmdWord (k op sub idx : Nat) : cmdSub (cmdWord k op sub idx) = sub % 256 := by
  have : (cmdWord k op sub idx).extractLsb' 16 8 = BitVec.ofNat 8 sub := by
    refine BitVec.eq_of_getLsbD_eq fun i hi => ?_
    rw [BitVec.getLsbD_extractLsb', cmdWord, BitVec.getLsbD_append, if_pos (by omega), BitVec.getLsbD_append,
      if_neg (by omega), decide_eq_true hi, Bool.true_and]
    congr 1
    omega
  simp [cmdSub, this]

@[simp] theorem cmdIdx_cmdWord (k op sub idx : Nat) : cmdIdx (cmdWord k op sub idx) = idx % 65536 := by
  have : (cmdWord k op sub idx).extractLsb' 0 16 = BitVec.ofNat 16 idx := by
    refine BitVec.eq_of_getLsbD_eq fun i hi => ?_
    rw [BitVec.getLsbD_extractLsb', cmdWord, BitVec.getLsbD_append, if_pos (by omega), BitVec.getLsbD_append,
      if_pos (by omega), decide_eq_true hi, Bool.true_and]
    congr 1
    omega
  simp [cmdIdx, this]

/-! ### The operands in `DATA` -/

@[simp] theorem dataWord_setWidth (v : Word) : dataWord (v.setWidth 64) = v := by
  refine BitVec.eq_of_getLsbD_eq fun i hi => ?_
  simp [dataWord, hi, show i < 64 by omega]

@[simp] theorem dataHalf_setWidth (v : Half) : dataHalf (v.setWidth 64) = v := by
  refine BitVec.eq_of_getLsbD_eq fun i hi => ?_
  simp [dataHalf, hi, show i < 64 by omega]

@[simp] theorem dataByte0_setlevelData (p n : Byte) (l : Bool) : dataByte0 (setlevelData p n l) = p := by
  refine BitVec.eq_of_getLsbD_eq fun i hi => ?_
  rw [dataByte0, setlevelData, BitVec.getLsbD_extractLsb', BitVec.getLsbD_setWidth, BitVec.getLsbD_append,
    if_pos (by omega), BitVec.getLsbD_append, if_pos (by omega), decide_eq_true hi, decide_eq_true (by omega)]
  simp

@[simp] theorem dataByte1_setlevelData (p n : Byte) (l : Bool) : dataByte1 (setlevelData p n l) = n := by
  refine BitVec.eq_of_getLsbD_eq fun i hi => ?_
  rw [dataByte1, setlevelData, BitVec.getLsbD_extractLsb', BitVec.getLsbD_setWidth, BitVec.getLsbD_append,
    if_pos (by omega), BitVec.getLsbD_append, if_neg (by omega), decide_eq_true hi, decide_eq_true (by omega)]
  simp

@[simp] theorem dataLevel_setlevelData (p n : Byte) (l : Bool) : dataLevel (setlevelData p n l) = l := by
  rw [dataLevel, setlevelData, BitVec.getLsbD_setWidth, BitVec.getLsbD_append, if_neg (by omega)]
  simp

@[simp] theorem dataByte0_setmaskData (e : Bool) (n : Byte) : dataByte0 (setmaskData e n) = n := by
  refine BitVec.eq_of_getLsbD_eq fun i hi => ?_
  rw [dataByte0, setmaskData, BitVec.getLsbD_extractLsb', BitVec.getLsbD_setWidth, BitVec.getLsbD_append,
    if_pos (by omega), decide_eq_true hi, decide_eq_true (by omega)]
  simp

@[simp] theorem dataEnable_setmaskData (e : Bool) (n : Byte) : dataEnable (setmaskData e n) = e := by
  rw [dataEnable, setmaskData, BitVec.getLsbD_setWidth, BitVec.getLsbD_append, if_neg (by omega)]
  simp

/-! ### The bits a row of the opcode table tests -/

/-- A command word under a mask, field by field. -/
theorem cmdWord_and (k op sub idx : Nat) (mk mo : BitVec 4) (ms : BitVec 8) (mi : BitVec 16) :
    cmdWord k op sub idx &&& ((mk ++ mo) ++ (ms ++ mi) : BitVec 32)
      = ((BitVec.ofNat 4 k &&& mk) ++ (BitVec.ofNat 4 op &&& mo))
        ++ ((BitVec.ofNat 8 sub &&& ms) ++ (BitVec.ofNat 16 idx &&& mi)) :=
  BitVec.and_append.trans (by rw [BitVec.and_append, BitVec.and_append])

/-- The mask `0xFFFF0000`: `K`, `OP` and `SUB`. -/
theorem cmdWord_and_unit (k op sub idx : Nat) : cmdWord k op sub idx &&& 0xFFFF0000#32 = cmdWord k op sub 0 := by
  have h : (0xFFFF0000#32 : BitVec 32) = (0xF#4 ++ 0xF#4) ++ (0xFF#8 ++ 0#16) := by decide
  have h4 : ∀ a : BitVec 4, a &&& 0xF#4 = a := fun _ => BitVec.and_allOnes
  have h8 : ∀ a : BitVec 8, a &&& 0xFF#8 = a := fun _ => BitVec.and_allOnes
  rw [h, cmdWord_and, h4, h4, h8, BitVec.and_zero]
  rfl

/-- The mask `0xFF000000`: `K` and `OP`. -/
theorem cmdWord_and_op (k op sub idx : Nat) : cmdWord k op sub idx &&& 0xFF000000#32 = cmdWord k op 0 0 := by
  have h : (0xFF000000#32 : BitVec 32) = (0xF#4 ++ 0xF#4) ++ (0#8 ++ 0#16) := by decide
  have h4 : ∀ a : BitVec 4, a &&& 0xF#4 = a := fun _ => BitVec.and_allOnes
  rw [h, cmdWord_and, h4, h4, BitVec.and_zero, BitVec.and_zero]
  rfl

/-- The mask `0xFFFE0000`: `K`, `OP` and all of `SUB` but the class. -/
theorem cmdWord_and_class (k op idx : Nat) (c : IrqClass) :
    cmdWord k op (classCode c) idx &&& 0xFFFE0000#32 = cmdWord k op 0 0 := by
  have h : (0xFFFE0000#32 : BitVec 32) = (0xF#4 ++ 0xF#4) ++ (0xFE#8 ++ 0#16) := by decide
  have h4 : ∀ a : BitVec 4, a &&& 0xF#4 = a := fun _ => BitVec.and_allOnes
  have hc : BitVec.ofNat 8 (classCode c) &&& 0xFE#8 = 0#8 := by cases c <;> decide
  rw [h, cmdWord_and, h4, h4, hc, BitVec.and_zero]
  rfl

/-- The mask `0xFFFEFFFF`, for `IDX` 0. -/
theorem cmdWord_and_class_idx (k op : Nat) (c : IrqClass) :
    cmdWord k op (classCode c) 0 &&& 0xFFFEFFFF#32 = cmdWord k op 0 0 := by
  have h : (0xFFFEFFFF#32 : BitVec 32) = (0xF#4 ++ 0xF#4) ++ (0xFE#8 ++ 0xFFFF#16) := by decide
  have h4 : ∀ a : BitVec 4, a &&& 0xF#4 = a := fun _ => BitVec.and_allOnes
  have hc : BitVec.ofNat 8 (classCode c) &&& 0xFE#8 = 0#8 := by cases c <;> decide
  rw [h, cmdWord_and, h4, h4, hc, show BitVec.ofNat 16 0 &&& 0xFFFF#16 = 0#16 by decide]
  rfl

end Sys2Proof
end

