-- ==== Sys2Proof/Laws/Delivery.lean ====
section
/-! SUPPORT. What a delivery, a RequestLine update, a bank update and an extension change can do (R111, R125, R135,
R212, R213). -/

namespace Sys2Proof.Machine

/-! ### What they leave alone -/

@[simp] theorem deliver_cfg (sink : Sink) (v : Nat) (s : State) : (deliver sink v s).cfg = s.cfg := by cases sink <;> simp only [deliver] <;> (try split) <;> simp
@[simp] theorem deliver_clc (sink : Sink) (v : Nat) (s : State) : (deliver sink v s).clc = s.clc := by cases sink <;> simp only [deliver] <;> (try split) <;> simp
@[simp] theorem deliver_fault (sink : Sink) (v : Nat) (s : State) : (deliver sink v s).fault = s.fault := by cases sink <;> simp only [deliver] <;> (try split) <;> simp
@[simp] theorem deliver_now (sink : Sink) (v : Nat) (s : State) : (deliver sink v s).now = s.now := by cases sink <;> simp only [deliver] <;> (try split) <;> simp
@[simp] theorem deliver_resp (sink : Sink) (v : Nat) (s : State) : (deliver sink v s).resp = s.resp := by cases sink <;> simp only [deliver] <;> (try split) <;> simp
@[simp] theorem deliver_inputs (sink : Sink) (v : Nat) (s : State) : (deliver sink v s).inputs = s.inputs := by cases sink <;> simp only [deliver] <;> (try split) <;> simp
@[simp] theorem deliver_srl (sink : Sink) (v : Nat) (s : State) : (deliver sink v s).srl = s.srl := by cases sink <;> simp only [deliver] <;> (try split) <;> simp
@[simp] theorem deliver_srb (sink : Sink) (v : Nat) (s : State) : (deliver sink v s).srb = s.srb := by cases sink <;> simp only [deliver] <;> (try split) <;> simp
@[simp] theorem deliver_srbx (sink : Sink) (v : Nat) (s : State) : (deliver sink v s).srbx = s.srbx := by cases sink <;> simp only [deliver] <;> (try split) <;> simp
@[simp] theorem deliver_vct (sink : Sink) (v : Nat) (s : State) : (deliver sink v s).vct = s.vct := by cases sink <;> simp only [deliver] <;> (try split) <;> simp
@[simp] theorem deliver_clcAt (sink : Sink) (v : Nat) (s : State) (n : Nat) : (deliver sink v s).clcAt n = s.clcAt n := by simp [State.clcAt]
@[simp] theorem deliver_srlAt (sink : Sink) (v : Nat) (s : State) (n : Nat) : (deliver sink v s).srlAt n = s.srlAt n := by simp [State.srlAt]
@[simp] theorem deliver_srbAt (sink : Sink) (v : Nat) (s : State) (n : Nat) : (deliver sink v s).srbAt n = s.srbAt n := by simp [State.srbAt]
@[simp] theorem deliver_srbxAt (sink : Sink) (v : Nat) (s : State) (n : Nat) : (deliver sink v s).srbxAt n = s.srbxAt n := by simp [State.srbxAt]
@[simp] theorem deliver_vctAt (sink : Sink) (v : Nat) (s : State) (n : Nat) : (deliver sink v s).vctAt n = s.vctAt n := by simp [State.vctAt]

@[simp] theorem srlUpdate_cfg (r : Nat) (s : State) : (srlUpdate r s).cfg = s.cfg := by simp only [srlUpdate]; split <;> simp
@[simp] theorem srlUpdate_clc (r : Nat) (s : State) : (srlUpdate r s).clc = s.clc := by simp only [srlUpdate]; split <;> simp
@[simp] theorem srlUpdate_fault (r : Nat) (s : State) : (srlUpdate r s).fault = s.fault := by simp only [srlUpdate]; split <;> simp
@[simp] theorem srlUpdate_now (r : Nat) (s : State) : (srlUpdate r s).now = s.now := by simp only [srlUpdate]; split <;> simp
@[simp] theorem srlUpdate_resp (r : Nat) (s : State) : (srlUpdate r s).resp = s.resp := by simp only [srlUpdate]; split <;> simp
@[simp] theorem srlUpdate_inputs (r : Nat) (s : State) : (srlUpdate r s).inputs = s.inputs := by simp only [srlUpdate]; split <;> simp
@[simp] theorem srlUpdate_srb (r : Nat) (s : State) : (srlUpdate r s).srb = s.srb := by simp only [srlUpdate]; split <;> simp
@[simp] theorem srlUpdate_srbx (r : Nat) (s : State) : (srlUpdate r s).srbx = s.srbx := by simp only [srlUpdate]; split <;> simp
@[simp] theorem srlUpdate_vct (r : Nat) (s : State) : (srlUpdate r s).vct = s.vct := by simp only [srlUpdate]; split <;> simp
@[simp] theorem srlUpdate_clcAt (r : Nat) (s : State) (n : Nat) : (srlUpdate r s).clcAt n = s.clcAt n := by simp [State.clcAt]
@[simp] theorem srlUpdate_srbAt (r : Nat) (s : State) (n : Nat) : (srlUpdate r s).srbAt n = s.srbAt n := by simp [State.srbAt]
@[simp] theorem srlUpdate_srbxAt (r : Nat) (s : State) (n : Nat) : (srlUpdate r s).srbxAt n = s.srbxAt n := by simp [State.srbxAt]
@[simp] theorem srlUpdate_vctAt (r : Nat) (s : State) (n : Nat) : (srlUpdate r s).vctAt n = s.vctAt n := by simp [State.vctAt]

@[simp] theorem srlSetPending_cfg (r : Nat) (p : Bool) (s : State) : (srlSetPending r p s).cfg = s.cfg := by simp [srlSetPending]
@[simp] theorem srlSetPending_clc (r : Nat) (p : Bool) (s : State) : (srlSetPending r p s).clc = s.clc := by simp [srlSetPending]
@[simp] theorem srlSetPending_fault (r : Nat) (p : Bool) (s : State) : (srlSetPending r p s).fault = s.fault := by simp [srlSetPending]
@[simp] theorem srlSetPending_now (r : Nat) (p : Bool) (s : State) : (srlSetPending r p s).now = s.now := by simp [srlSetPending]
@[simp] theorem srlSetPending_resp (r : Nat) (p : Bool) (s : State) : (srlSetPending r p s).resp = s.resp := by simp [srlSetPending]
@[simp] theorem srlSetPending_inputs (r : Nat) (p : Bool) (s : State) : (srlSetPending r p s).inputs = s.inputs := by simp [srlSetPending]
@[simp] theorem srlSetPending_srb (r : Nat) (p : Bool) (s : State) : (srlSetPending r p s).srb = s.srb := by simp [srlSetPending]
@[simp] theorem srlSetPending_srbx (r : Nat) (p : Bool) (s : State) : (srlSetPending r p s).srbx = s.srbx := by simp [srlSetPending]
@[simp] theorem srlSetPending_vct (r : Nat) (p : Bool) (s : State) : (srlSetPending r p s).vct = s.vct := by simp [srlSetPending]
@[simp] theorem srlSetPending_clcAt (r : Nat) (p : Bool) (s : State) (n : Nat) : (srlSetPending r p s).clcAt n = s.clcAt n := by simp [State.clcAt]
@[simp] theorem srlSetPending_srbAt (r : Nat) (p : Bool) (s : State) (n : Nat) : (srlSetPending r p s).srbAt n = s.srbAt n := by simp [State.srbAt]
@[simp] theorem srlSetPending_srbxAt (r : Nat) (p : Bool) (s : State) (n : Nat) : (srlSetPending r p s).srbxAt n = s.srbxAt n := by simp [State.srbxAt]
@[simp] theorem srlSetPending_vctAt (r : Nat) (p : Bool) (s : State) (n : Nat) : (srlSetPending r p s).vctAt n = s.vctAt n := by simp [State.vctAt]

@[simp] theorem srbLineUpdate_cfg (b : Nat) (act : Word) (j : Nat) (s : State) : (srbLineUpdate b act s j).cfg = s.cfg := by simp only [srbLineUpdate]; split <;> simp
@[simp] theorem srbLineUpdate_clc (b : Nat) (act : Word) (j : Nat) (s : State) : (srbLineUpdate b act s j).clc = s.clc := by simp only [srbLineUpdate]; split <;> simp
@[simp] theorem srbLineUpdate_fault (b : Nat) (act : Word) (j : Nat) (s : State) : (srbLineUpdate b act s j).fault = s.fault := by simp only [srbLineUpdate]; split <;> simp
@[simp] theorem srbLineUpdate_now (b : Nat) (act : Word) (j : Nat) (s : State) : (srbLineUpdate b act s j).now = s.now := by simp only [srbLineUpdate]; split <;> simp
@[simp] theorem srbLineUpdate_resp (b : Nat) (act : Word) (j : Nat) (s : State) : (srbLineUpdate b act s j).resp = s.resp := by simp only [srbLineUpdate]; split <;> simp
@[simp] theorem srbLineUpdate_inputs (b : Nat) (act : Word) (j : Nat) (s : State) : (srbLineUpdate b act s j).inputs = s.inputs := by simp only [srbLineUpdate]; split <;> simp
@[simp] theorem srbLineUpdate_srl (b : Nat) (act : Word) (j : Nat) (s : State) : (srbLineUpdate b act s j).srl = s.srl := by simp only [srbLineUpdate]; split <;> simp
@[simp] theorem srbLineUpdate_srbx (b : Nat) (act : Word) (j : Nat) (s : State) : (srbLineUpdate b act s j).srbx = s.srbx := by simp only [srbLineUpdate]; split <;> simp
@[simp] theorem srbLineUpdate_vct (b : Nat) (act : Word) (j : Nat) (s : State) : (srbLineUpdate b act s j).vct = s.vct := by simp only [srbLineUpdate]; split <;> simp
@[simp] theorem srbLineUpdate_clcAt (b : Nat) (act : Word) (j : Nat) (s : State) (n : Nat) : (srbLineUpdate b act s j).clcAt n = s.clcAt n := by simp [State.clcAt]
@[simp] theorem srbLineUpdate_srlAt (b : Nat) (act : Word) (j : Nat) (s : State) (n : Nat) : (srbLineUpdate b act s j).srlAt n = s.srlAt n := by simp [State.srlAt]
@[simp] theorem srbLineUpdate_srbxAt (b : Nat) (act : Word) (j : Nat) (s : State) (n : Nat) : (srbLineUpdate b act s j).srbxAt n = s.srbxAt n := by simp [State.srbxAt]
@[simp] theorem srbLineUpdate_vctAt (b : Nat) (act : Word) (j : Nat) (s : State) (n : Nat) : (srbLineUpdate b act s j).vctAt n = s.vctAt n := by simp [State.vctAt]

theorem foldl_srbLineUpdate_cfg (b : Nat) (act : Word) (js : List Nat) (s : State) :
    (js.foldl (srbLineUpdate b act) s).cfg = s.cfg := by
  induction js generalizing s with
  | nil => rfl
  | cons j js ih => rw [List.foldl_cons, ih, srbLineUpdate_cfg]
theorem foldl_srbLineUpdate_clc (b : Nat) (act : Word) (js : List Nat) (s : State) :
    (js.foldl (srbLineUpdate b act) s).clc = s.clc := by
  induction js generalizing s with
  | nil => rfl
  | cons j js ih => rw [List.foldl_cons, ih, srbLineUpdate_clc]
theorem foldl_srbLineUpdate_fault (b : Nat) (act : Word) (js : List Nat) (s : State) :
    (js.foldl (srbLineUpdate b act) s).fault = s.fault := by
  induction js generalizing s with
  | nil => rfl
  | cons j js ih => rw [List.foldl_cons, ih, srbLineUpdate_fault]
theorem foldl_srbLineUpdate_now (b : Nat) (act : Word) (js : List Nat) (s : State) :
    (js.foldl (srbLineUpdate b act) s).now = s.now := by
  induction js generalizing s with
  | nil => rfl
  | cons j js ih => rw [List.foldl_cons, ih, srbLineUpdate_now]
theorem foldl_srbLineUpdate_resp (b : Nat) (act : Word) (js : List Nat) (s : State) :
    (js.foldl (srbLineUpdate b act) s).resp = s.resp := by
  induction js generalizing s with
  | nil => rfl
  | cons j js ih => rw [List.foldl_cons, ih, srbLineUpdate_resp]
theorem foldl_srbLineUpdate_inputs (b : Nat) (act : Word) (js : List Nat) (s : State) :
    (js.foldl (srbLineUpdate b act) s).inputs = s.inputs := by
  induction js generalizing s with
  | nil => rfl
  | cons j js ih => rw [List.foldl_cons, ih, srbLineUpdate_inputs]
theorem foldl_srbLineUpdate_srl (b : Nat) (act : Word) (js : List Nat) (s : State) :
    (js.foldl (srbLineUpdate b act) s).srl = s.srl := by
  induction js generalizing s with
  | nil => rfl
  | cons j js ih => rw [List.foldl_cons, ih, srbLineUpdate_srl]
theorem foldl_srbLineUpdate_srbx (b : Nat) (act : Word) (js : List Nat) (s : State) :
    (js.foldl (srbLineUpdate b act) s).srbx = s.srbx := by
  induction js generalizing s with
  | nil => rfl
  | cons j js ih => rw [List.foldl_cons, ih, srbLineUpdate_srbx]
theorem foldl_srbLineUpdate_vct (b : Nat) (act : Word) (js : List Nat) (s : State) :
    (js.foldl (srbLineUpdate b act) s).vct = s.vct := by
  induction js generalizing s with
  | nil => rfl
  | cons j js ih => rw [List.foldl_cons, ih, srbLineUpdate_vct]

@[simp] theorem srbUpdate_cfg (b : Nat) (s : State) : (srbUpdate b s).cfg = s.cfg := foldl_srbLineUpdate_cfg ..
@[simp] theorem srbUpdate_clc (b : Nat) (s : State) : (srbUpdate b s).clc = s.clc := foldl_srbLineUpdate_clc ..
@[simp] theorem srbUpdate_fault (b : Nat) (s : State) : (srbUpdate b s).fault = s.fault := foldl_srbLineUpdate_fault ..
@[simp] theorem srbUpdate_now (b : Nat) (s : State) : (srbUpdate b s).now = s.now := foldl_srbLineUpdate_now ..
@[simp] theorem srbUpdate_resp (b : Nat) (s : State) : (srbUpdate b s).resp = s.resp := foldl_srbLineUpdate_resp ..
@[simp] theorem srbUpdate_inputs (b : Nat) (s : State) : (srbUpdate b s).inputs = s.inputs := foldl_srbLineUpdate_inputs ..
@[simp] theorem srbUpdate_srl (b : Nat) (s : State) : (srbUpdate b s).srl = s.srl := foldl_srbLineUpdate_srl ..
@[simp] theorem srbUpdate_srbx (b : Nat) (s : State) : (srbUpdate b s).srbx = s.srbx := foldl_srbLineUpdate_srbx ..
@[simp] theorem srbUpdate_vct (b : Nat) (s : State) : (srbUpdate b s).vct = s.vct := foldl_srbLineUpdate_vct ..
@[simp] theorem srbUpdate_clcAt (b : Nat) (s : State) (n : Nat) : (srbUpdate b s).clcAt n = s.clcAt n := by simp [State.clcAt]
@[simp] theorem srbUpdate_srlAt (b : Nat) (s : State) (n : Nat) : (srbUpdate b s).srlAt n = s.srlAt n := by simp [State.srlAt]
@[simp] theorem srbUpdate_srbxAt (b : Nat) (s : State) (n : Nat) : (srbUpdate b s).srbxAt n = s.srbxAt n := by simp [State.srbxAt]
@[simp] theorem srbUpdate_vctAt (b : Nat) (s : State) (n : Nat) : (srbUpdate b s).vctAt n = s.vctAt n := by simp [State.vctAt]

@[simp] theorem srbSetMaskBits_cfg (b : Nat) (bits : Word) (s : State) : (srbSetMaskBits b bits s).cfg = s.cfg := by simp [srbSetMaskBits]
@[simp] theorem srbSetMaskBits_clc (b : Nat) (bits : Word) (s : State) : (srbSetMaskBits b bits s).clc = s.clc := by simp [srbSetMaskBits]
@[simp] theorem srbSetMaskBits_fault (b : Nat) (bits : Word) (s : State) : (srbSetMaskBits b bits s).fault = s.fault := by simp [srbSetMaskBits]
@[simp] theorem srbSetMaskBits_now (b : Nat) (bits : Word) (s : State) : (srbSetMaskBits b bits s).now = s.now := by simp [srbSetMaskBits]
@[simp] theorem srbSetMaskBits_resp (b : Nat) (bits : Word) (s : State) : (srbSetMaskBits b bits s).resp = s.resp := by simp [srbSetMaskBits]
@[simp] theorem srbSetMaskBits_inputs (b : Nat) (bits : Word) (s : State) : (srbSetMaskBits b bits s).inputs = s.inputs := by simp [srbSetMaskBits]
@[simp] theorem srbSetMaskBits_srl (b : Nat) (bits : Word) (s : State) : (srbSetMaskBits b bits s).srl = s.srl := by simp [srbSetMaskBits]
@[simp] theorem srbSetMaskBits_srbx (b : Nat) (bits : Word) (s : State) : (srbSetMaskBits b bits s).srbx = s.srbx := by simp [srbSetMaskBits]
@[simp] theorem srbSetMaskBits_vct (b : Nat) (bits : Word) (s : State) : (srbSetMaskBits b bits s).vct = s.vct := by simp [srbSetMaskBits]
@[simp] theorem srbSetMaskBits_clcAt (b : Nat) (bits : Word) (s : State) (n : Nat) : (srbSetMaskBits b bits s).clcAt n = s.clcAt n := by simp [State.clcAt]
@[simp] theorem srbSetMaskBits_srlAt (b : Nat) (bits : Word) (s : State) (n : Nat) : (srbSetMaskBits b bits s).srlAt n = s.srlAt n := by simp [State.srlAt]
@[simp] theorem srbSetMaskBits_srbxAt (b : Nat) (bits : Word) (s : State) (n : Nat) : (srbSetMaskBits b bits s).srbxAt n = s.srbxAt n := by simp [State.srbxAt]
@[simp] theorem srbSetMaskBits_vctAt (b : Nat) (bits : Word) (s : State) (n : Nat) : (srbSetMaskBits b bits s).vctAt n = s.vctAt n := by simp [State.vctAt]

@[simp] theorem srbSetRawBits_cfg (b : Nat) (bits : Word) (s : State) : (srbSetRawBits b bits s).cfg = s.cfg := by simp [srbSetRawBits]
@[simp] theorem srbSetRawBits_clc (b : Nat) (bits : Word) (s : State) : (srbSetRawBits b bits s).clc = s.clc := by simp [srbSetRawBits]
@[simp] theorem srbSetRawBits_fault (b : Nat) (bits : Word) (s : State) : (srbSetRawBits b bits s).fault = s.fault := by simp [srbSetRawBits]
@[simp] theorem srbSetRawBits_now (b : Nat) (bits : Word) (s : State) : (srbSetRawBits b bits s).now = s.now := by simp [srbSetRawBits]
@[simp] theorem srbSetRawBits_resp (b : Nat) (bits : Word) (s : State) : (srbSetRawBits b bits s).resp = s.resp := by simp [srbSetRawBits]
@[simp] theorem srbSetRawBits_inputs (b : Nat) (bits : Word) (s : State) : (srbSetRawBits b bits s).inputs = s.inputs := by simp [srbSetRawBits]
@[simp] theorem srbSetRawBits_srl (b : Nat) (bits : Word) (s : State) : (srbSetRawBits b bits s).srl = s.srl := by simp [srbSetRawBits]
@[simp] theorem srbSetRawBits_srbx (b : Nat) (bits : Word) (s : State) : (srbSetRawBits b bits s).srbx = s.srbx := by simp [srbSetRawBits]
@[simp] theorem srbSetRawBits_vct (b : Nat) (bits : Word) (s : State) : (srbSetRawBits b bits s).vct = s.vct := by simp [srbSetRawBits]
@[simp] theorem srbSetRawBits_clcAt (b : Nat) (bits : Word) (s : State) (n : Nat) : (srbSetRawBits b bits s).clcAt n = s.clcAt n := by simp [State.clcAt]
@[simp] theorem srbSetRawBits_srlAt (b : Nat) (bits : Word) (s : State) (n : Nat) : (srbSetRawBits b bits s).srlAt n = s.srlAt n := by simp [State.srlAt]
@[simp] theorem srbSetRawBits_srbxAt (b : Nat) (bits : Word) (s : State) (n : Nat) : (srbSetRawBits b bits s).srbxAt n = s.srbxAt n := by simp [State.srbxAt]
@[simp] theorem srbSetRawBits_vctAt (b : Nat) (bits : Word) (s : State) (n : Nat) : (srbSetRawBits b bits s).vctAt n = s.vctAt n := by simp [State.vctAt]

@[simp] theorem srbClearRawBits_cfg (b : Nat) (bits : Word) (s : State) : (srbClearRawBits b bits s).cfg = s.cfg := by simp [srbClearRawBits]
@[simp] theorem srbClearRawBits_clc (b : Nat) (bits : Word) (s : State) : (srbClearRawBits b bits s).clc = s.clc := by simp [srbClearRawBits]
@[simp] theorem srbClearRawBits_fault (b : Nat) (bits : Word) (s : State) : (srbClearRawBits b bits s).fault = s.fault := by simp [srbClearRawBits]
@[simp] theorem srbClearRawBits_now (b : Nat) (bits : Word) (s : State) : (srbClearRawBits b bits s).now = s.now := by simp [srbClearRawBits]
@[simp] theorem srbClearRawBits_resp (b : Nat) (bits : Word) (s : State) : (srbClearRawBits b bits s).resp = s.resp := by simp [srbClearRawBits]
@[simp] theorem srbClearRawBits_inputs (b : Nat) (bits : Word) (s : State) : (srbClearRawBits b bits s).inputs = s.inputs := by simp [srbClearRawBits]
@[simp] theorem srbClearRawBits_srl (b : Nat) (bits : Word) (s : State) : (srbClearRawBits b bits s).srl = s.srl := by simp [srbClearRawBits]
@[simp] theorem srbClearRawBits_srbx (b : Nat) (bits : Word) (s : State) : (srbClearRawBits b bits s).srbx = s.srbx := by simp [srbClearRawBits]
@[simp] theorem srbClearRawBits_vct (b : Nat) (bits : Word) (s : State) : (srbClearRawBits b bits s).vct = s.vct := by simp [srbClearRawBits]
@[simp] theorem srbClearRawBits_clcAt (b : Nat) (bits : Word) (s : State) (n : Nat) : (srbClearRawBits b bits s).clcAt n = s.clcAt n := by simp [State.clcAt]
@[simp] theorem srbClearRawBits_srlAt (b : Nat) (bits : Word) (s : State) (n : Nat) : (srbClearRawBits b bits s).srlAt n = s.srlAt n := by simp [State.srlAt]
@[simp] theorem srbClearRawBits_srbxAt (b : Nat) (bits : Word) (s : State) (n : Nat) : (srbClearRawBits b bits s).srbxAt n = s.srbxAt n := by simp [State.srbxAt]
@[simp] theorem srbClearRawBits_vctAt (b : Nat) (bits : Word) (s : State) (n : Nat) : (srbClearRawBits b bits s).vctAt n = s.vctAt n := by simp [State.vctAt]

@[simp] theorem srbxChange_cfg (x : Nat) (u : Srbx) (s : State) : (srbxChange x u s).cfg = s.cfg := by simp only [srbxChange]; (repeat' split) <;> simp
@[simp] theorem srbxChange_clc (x : Nat) (u : Srbx) (s : State) : (srbxChange x u s).clc = s.clc := by simp only [srbxChange]; (repeat' split) <;> simp
@[simp] theorem srbxChange_fault (x : Nat) (u : Srbx) (s : State) : (srbxChange x u s).fault = s.fault := by simp only [srbxChange]; (repeat' split) <;> simp
@[simp] theorem srbxChange_now (x : Nat) (u : Srbx) (s : State) : (srbxChange x u s).now = s.now := by simp only [srbxChange]; (repeat' split) <;> simp
@[simp] theorem srbxChange_resp (x : Nat) (u : Srbx) (s : State) : (srbxChange x u s).resp = s.resp := by simp only [srbxChange]; (repeat' split) <;> simp
@[simp] theorem srbxChange_inputs (x : Nat) (u : Srbx) (s : State) : (srbxChange x u s).inputs = s.inputs := by simp only [srbxChange]; (repeat' split) <;> simp
@[simp] theorem srbxChange_srl (x : Nat) (u : Srbx) (s : State) : (srbxChange x u s).srl = s.srl := by simp only [srbxChange]; (repeat' split) <;> simp
@[simp] theorem srbxChange_vct (x : Nat) (u : Srbx) (s : State) : (srbxChange x u s).vct = s.vct := by simp only [srbxChange]; (repeat' split) <;> simp
@[simp] theorem srbxChange_clcAt (x : Nat) (u : Srbx) (s : State) (n : Nat) : (srbxChange x u s).clcAt n = s.clcAt n := by simp [State.clcAt]
@[simp] theorem srbxChange_srlAt (x : Nat) (u : Srbx) (s : State) (n : Nat) : (srbxChange x u s).srlAt n = s.srlAt n := by simp [State.srlAt]
@[simp] theorem srbxChange_vctAt (x : Nat) (u : Srbx) (s : State) (n : Nat) : (srbxChange x u s).vctAt n = s.vctAt n := by simp [State.vctAt]

@[simp] theorem srbxSetRawBits_cfg (x : Nat) (bits : Word) (s : State) : (srbxSetRawBits x bits s).cfg = s.cfg := by simp [srbxSetRawBits]
@[simp] theorem srbxSetRawBits_clc (x : Nat) (bits : Word) (s : State) : (srbxSetRawBits x bits s).clc = s.clc := by simp [srbxSetRawBits]
@[simp] theorem srbxSetRawBits_fault (x : Nat) (bits : Word) (s : State) : (srbxSetRawBits x bits s).fault = s.fault := by simp [srbxSetRawBits]
@[simp] theorem srbxSetRawBits_now (x : Nat) (bits : Word) (s : State) : (srbxSetRawBits x bits s).now = s.now := by simp [srbxSetRawBits]
@[simp] theorem srbxSetRawBits_resp (x : Nat) (bits : Word) (s : State) : (srbxSetRawBits x bits s).resp = s.resp := by simp [srbxSetRawBits]
@[simp] theorem srbxSetRawBits_inputs (x : Nat) (bits : Word) (s : State) : (srbxSetRawBits x bits s).inputs = s.inputs := by simp [srbxSetRawBits]
@[simp] theorem srbxSetRawBits_srl (x : Nat) (bits : Word) (s : State) : (srbxSetRawBits x bits s).srl = s.srl := by simp [srbxSetRawBits]
@[simp] theorem srbxSetRawBits_vct (x : Nat) (bits : Word) (s : State) : (srbxSetRawBits x bits s).vct = s.vct := by simp [srbxSetRawBits]
@[simp] theorem srbxSetRawBits_clcAt (x : Nat) (bits : Word) (s : State) (n : Nat) : (srbxSetRawBits x bits s).clcAt n = s.clcAt n := by simp [State.clcAt]
@[simp] theorem srbxSetRawBits_srlAt (x : Nat) (bits : Word) (s : State) (n : Nat) : (srbxSetRawBits x bits s).srlAt n = s.srlAt n := by simp [State.srlAt]
@[simp] theorem srbxSetRawBits_vctAt (x : Nat) (bits : Word) (s : State) (n : Nat) : (srbxSetRawBits x bits s).vctAt n = s.vctAt n := by simp [State.vctAt]

@[simp] theorem performRoute_cfg (route : Route) (s : State) : (performRoute route s).cfg = s.cfg := by cases route <;> simp [performRoute]
@[simp] theorem performRoute_clc (route : Route) (s : State) : (performRoute route s).clc = s.clc := by cases route <;> simp [performRoute]
@[simp] theorem performRoute_fault (route : Route) (s : State) : (performRoute route s).fault = s.fault := by cases route <;> simp [performRoute]
@[simp] theorem performRoute_now (route : Route) (s : State) : (performRoute route s).now = s.now := by cases route <;> simp [performRoute]
@[simp] theorem performRoute_resp (route : Route) (s : State) : (performRoute route s).resp = s.resp := by cases route <;> simp [performRoute]
@[simp] theorem performRoute_inputs (route : Route) (s : State) : (performRoute route s).inputs = s.inputs := by cases route <;> simp [performRoute]
@[simp] theorem performRoute_vct (route : Route) (s : State) : (performRoute route s).vct = s.vct := by cases route <;> simp [performRoute]
@[simp] theorem performRoute_clcAt (route : Route) (s : State) (n : Nat) : (performRoute route s).clcAt n = s.clcAt n := by simp [State.clcAt]
@[simp] theorem performRoute_vctAt (route : Route) (s : State) (n : Nat) : (performRoute route s).vctAt n = s.vctAt n := by simp [State.vctAt]

@[simp] theorem fire_cfg (t : Nat) (k : Callback) (s : State) : (fire t k s).cfg = s.cfg := by simp [fire]
@[simp] theorem fire_clc (t : Nat) (k : Callback) (s : State) : (fire t k s).clc = s.clc := by simp [fire]
@[simp] theorem fire_fault (t : Nat) (k : Callback) (s : State) : (fire t k s).fault = s.fault := by simp [fire]
@[simp] theorem fire_now (t : Nat) (k : Callback) (s : State) : (fire t k s).now = s.now := by simp [fire]
@[simp] theorem fire_resp (t : Nat) (k : Callback) (s : State) : (fire t k s).resp = s.resp := by simp [fire]
@[simp] theorem fire_inputs (t : Nat) (k : Callback) (s : State) : (fire t k s).inputs = s.inputs := by simp [fire]
@[simp] theorem fire_vct (t : Nat) (k : Callback) (s : State) : (fire t k s).vct = s.vct := by simp [fire]
@[simp] theorem fire_clcAt (t : Nat) (k : Callback) (s : State) (n : Nat) : (fire t k s).clcAt n = s.clcAt n := by simp [State.clcAt]
@[simp] theorem fire_vctAt (t : Nat) (k : Callback) (s : State) (n : Nat) : (fire t k s).vctAt n = s.vctAt n := by simp [State.vctAt]

/-! ### Histories of levels -/

theorem alternatesFrom_append (b : Bool) (xs ys : List Bool) :
    alternatesFrom b (xs ++ ys) = (alternatesFrom b xs && alternatesFrom (!(xs.getLastD (!b))) ys) := by
  induction xs generalizing b with
  | nil => simp [alternatesFrom]
  | cons x xs ih =>
    simp only [List.cons_append, alternatesFrom, ih, List.getLastD_cons, Bool.and_assoc]
    cases b <;> cases x <;> simp

theorem getLastD_append (xs ys : List Bool) (b : Bool) :
    (xs ++ ys).getLastD b = ys.getLastD (xs.getLastD b) := by
  induction xs generalizing b with
  | nil => rfl
  | cons x xs ih => simp only [List.cons_append, List.getLastD_cons, ih]

theorem edgesOf_append (k : IrqClass) (xs ys : List Event) : edgesOf k (xs ++ ys) = edgesOf k xs ++ edgesOf k ys := by
  simp [edgesOf]

theorem newEvents_eq {s t : State} {l : List Event} (h : t.trace = s.trace ++ l) : newEvents s t = l := by
  simp [newEvents, h]

theorem newEvents_trans {s t u : State} (h₁ : s.trace <+: t.trace) (h₂ : t.trace <+: u.trace) :
    newEvents s u = newEvents s t ++ newEvents t u := by
  obtain ⟨l₁, h₁⟩ := h₁
  obtain ⟨l₂, h₂⟩ := h₂
  rw [newEvents_eq h₁.symm, newEvents_eq h₂.symm, newEvents_eq (l := l₁ ++ l₂) (by rw [← h₂, ← h₁]; simp)]

theorem edgesOf_edgeBetween (s t : State) (k k' : IrqClass) :
    edgesOf k (edgeBetween s t k') = if k' = k ∧ t.out k ≠ s.out k then [t.out k] else [] := by
  unfold edgeBetween
  by_cases h : k' = k
  · subst h; by_cases h' : t.out k' = s.out k' <;> simp [h', edgesOf]
  · split <;> simp [edgesOf, h]

theorem filter_edgeBetween (s t : State) (k : IrqClass) : (edgeBetween s t k).filter Event.isDeliver = [] := by
  unfold edgeBetween; split <;> simp [Event.isDeliver]

theorem any_edgeBetween (s t : State) (k : IrqClass) : (edgeBetween s t k).any Event.isFire = false := by
  unfold edgeBetween; split <;> simp [Event.isFire]

/-! ### Deliveries -/

theorem Delivered.refl (s : State) : Delivered [] s s := by
  have h : newEvents s s = [] := newEvents_eq (by simp)
  exact ⟨rfl, by simp, fun _ => rfl, fun k => by simp [h, edgesOf], List.prefix_rfl, by simp [h], by simp [h]⟩

/-- `Delivered` reads of its first state only the Arbiter, the trace and the configuration. -/
theorem Delivered.congr_left {ds : List (Sink × Nat)} {s s' t : State} (hc : s'.cfg = s.cfg) (hl : s'.lines = s.lines)
    (hn : s'.normal = s.normal) (hf : s'.fast = s.fast) (ht : s'.trace = s.trace) (h : Delivered ds s' t) :
    Delivered ds s t := by
  have hk : ∀ k, s'.classAt k = s.classAt k := fun k => by cases k <;> simp [State.classAt, hn, hf]
  have ho : ∀ k, s'.out k = s.out k := fun k => out_congr (hk k)
  have he : newEvents s' t = newEvents s t := by simp [newEvents, ht]
  obtain ⟨h1, h2, h3, h4, h5, h6, h7⟩ := h
  refine ⟨by rw [h1, hl], ?_, ?_, ?_, ht ▸ h5, he ▸ h6, he ▸ h7⟩
  · intro i hi
    have := h2 i (hl ▸ hi)
    simpa only [State.lineAt, hl, hc] using this
  · intro k; rw [h3, hk]
  · intro k
    have := h4 k
    simpa only [Rearbitrated, EdgesLead, hk, ho, he] using this

theorem foldl_drive_ext (ne : Bool) (i : Nat) (ds : List (Sink × Nat)) (l : ArbLine)
    (h : ds.any (fun d => sinkIsArb d.1) = false) : ds.foldl (drive ne i) l = l := by
  induction ds with
  | nil => rfl
  | cons d ds ih =>
    obtain ⟨hd, hds⟩ := by simpa using h
    rw [List.foldl_cons]
    obtain ⟨sink, v⟩ := d
    cases sink with
    | arb => simp [sinkIsArb] at hd
    | ext n => exact ih (by simpa using hds)

theorem Delivered.lineAt {ds : List (Sink × Nat)} {s t : State} (h : Delivered ds s t)
    (he : ds.any (fun d => sinkIsArb d.1) = false) (i : Nat) : t.lineAt i = s.lineAt i := by
  by_cases hi : i < s.lines.length
  · rw [h.lines i hi, foldl_drive_ext _ _ _ _ he]
  · simp [State.lineAt, List.getElem?_eq_none (Nat.le_of_not_lt hi),
      List.getElem?_eq_none (h.length ▸ Nat.le_of_not_lt hi)]

/-- Deliveries in sequence. -/
theorem Delivered.trans {ds es : List (Sink × Nat)} {s t u : State} (hc₁ : t.cfg = s.cfg) (hc₂ : u.cfg = t.cfg)
    (h : Delivered ds s t) (g : Delivered es t u) : Delivered (ds ++ es) s u := by
  have he := newEvents_trans h.grows g.grows
  refine ⟨by rw [g.length, h.length], ?_, fun k => by rw [g.filters, h.filters], ?_, h.grows.trans g.grows, ?_, ?_⟩
  · intro i hi
    rw [g.lines i (by rw [h.length]; exact hi), h.lines i hi, hc₁, List.foldl_append]
  · intro k
    have h4 := h.classes k
    have g4 := g.classes k
    by_cases ha : ds.any (fun d => sinkIsArb d.1) = true <;> by_cases hb : es.any (fun d => sinkIsArb d.1) = true
    · simp only [ha, hb, if_true] at h4 g4
      simp only [List.any_append, ha, hb, Bool.or_self, if_true]
      obtain ⟨⟨a1, a2⟩, a3, a4⟩ := h4
      obtain ⟨⟨b1, b2⟩, b3, b4⟩ := g4
      refine ⟨⟨by rw [b1, a1], ?_⟩, ?_, ?_⟩
      · by_cases hl : (s.classAt k).lockedLineId = none
        · simpa [a1, hl] using b2
        · simp only [hl, if_false] at a2 ⊢
          simp only [a1, hl, if_false] at b2
          rw [b2, a2]
      · rw [he, edgesOf_append, alternatesFrom_append, a3, Bool.not_not, a4, b3]; rfl
      · rw [he, edgesOf_append, getLastD_append, a4, b4]
    · have hb' : es.any (fun d => sinkIsArb d.1) = false := by simpa using hb
      simp only [ha, if_true] at h4
      simp only [hb', Bool.false_eq_true, if_false] at g4
      simp only [List.any_append, ha, hb', Bool.or_false, if_true]
      obtain ⟨⟨a1, a2⟩, a3, a4⟩ := h4
      obtain ⟨b1, b2⟩ := g4
      refine ⟨⟨by rw [b1, a1], ?_⟩, ?_, ?_⟩
      · split
        · rename_i hl
          simp only [hl, if_true] at a2
          rw [b1]
          exact wins_congr hc₂ (fun i _ => g.lineAt hb' i) (by rw [b1]) a2
        · rename_i hl
          simp only [hl, if_false] at a2
          rw [b1, a2]
      · rw [he, edgesOf_append, b2, List.append_nil, a3]
      · rw [he, edgesOf_append, b2, List.append_nil, a4, out_congr b1]
    · have ha' : ds.any (fun d => sinkIsArb d.1) = false := by simpa using ha
      simp only [ha', Bool.false_eq_true, if_false] at h4
      simp only [hb, if_true] at g4
      simp only [List.any_append, ha', hb, Bool.false_or, if_true]
      obtain ⟨a1, a2⟩ := h4
      obtain ⟨b1, b2⟩ := g4
      refine ⟨?_, ?_⟩
      · simpa only [Rearbitrated, a1] using b1
      · simpa only [EdgesLead, he, edgesOf_append, a2, List.nil_append, out_congr a1] using b2
    · have ha' : ds.any (fun d => sinkIsArb d.1) = false := by simpa using ha
      have hb' : es.any (fun d => sinkIsArb d.1) = false := by simpa using hb
      simp only [ha', hb', Bool.false_eq_true, if_false] at h4 g4
      simp only [List.any_append, ha', hb', Bool.or_self, Bool.false_eq_true, if_false]
      exact ⟨by rw [g4.1, h4.1], by rw [he, edgesOf_append, h4.2, g4.2]; rfl⟩
  · rw [he, List.filter_append, h.delivers, g.delivers, List.map_append]
  · rw [he, List.any_append, h.noFire, g.noFire]; rfl

/-- The body of `ARB.SETLEVEL` as a change of the Arbiter: the line, both classes re-selected, at most one edge each. -/
theorem setLevel_edgesLead (id : Nat) (cls : IrqClass) (p n : Byte) (l : Bool) (s : State) (k : IrqClass)
    (l₀ : List Event) (h₀ : ∀ k, edgesOf k l₀ = []) (s₀ : State) (ho : ∀ k, s₀.out k = s.out k)
    (ht : s.trace = s₀.trace ++ l₀) : EdgesLead s₀ (setLevel id cls p n l s) k := by
  have h : newEvents s₀ (setLevel id cls p n l s) = l₀ ++ (edgeBetween s (setLevel id cls p n l s) .normal
      ++ edgeBetween s (setLevel id cls p n l s) .fast) :=
    newEvents_eq (by rw [setLevel_trace, ht, List.append_assoc])
  simp only [EdgesLead, h, edgesOf_append, edgesOf_edgeBetween, h₀, List.nil_append, ho]
  generalize (setLevel id cls p n l s).out k = b
  cases k <;> cases b <;> cases s.out _ <;> simp [alternatesFrom]

/-- `Deliver(sink, v)` is one delivery (R212, R213). -/
theorem deliver_spec (sink : Sink) (v : Nat) (s : State) : Delivered [(sink, v)] s (deliver sink v s) := by
  cases sink with
  | ext n =>
    have h : newEvents s (deliver (.ext n) v s) = [.deliver (.ext n) v] := newEvents_eq (by simp [deliver])
    refine ⟨by simp [deliver], by simp [deliver, drive], by simp [deliver], ?_, by simp [deliver], ?_, ?_⟩
    · simp only [h]; simp [sinkIsArb, edgesOf, deliver]
    · simp [h, Event.isDeliver]
    · simp [h, Event.isFire]
  | arb id cls nest prio =>
    -- one call of `ARB.SETLEVEL`, whatever `v` is
    obtain ⟨p, l, hd, hp⟩ : ∃ p l, deliver (.arb id cls nest prio) v s
        = setLevel id cls p nest l (s.emit (.deliver (.arb id cls nest prio) v))
        ∧ newLine s.cfg.nestEnabled cls p nest l = drive s.cfg.nestEnabled id (s.lineAt id)
          (.arb id cls nest prio, v) := by
      by_cases hv : v = 0
      · exact ⟨(s.lineAt id).priority, false, by simp [deliver, hv],
          by cases cls <;> simp [newLine, drive, hv]⟩
      · exact ⟨deliveredPriority prio v, true, by simp [deliver, hv],
          by cases cls <;> cases prio <;> simp [newLine, drive, hv, deliveredPriority]⟩
    rw [hd]
    generalize hs1 : s.emit (.deliver (.arb id cls nest prio) v) = s1
    have ht : s1.trace = s.trace ++ [.deliver (.arb id cls nest prio) v] := by subst hs1; simp
    have hc : s1.cfg = s.cfg := by subst hs1; simp
    have hl : s1.lines = s.lines := by subst hs1; simp
    have hla : ∀ i, s1.lineAt i = s.lineAt i := fun i => by subst hs1; simp
    have hk : ∀ k, s1.classAt k = s.classAt k := fun k => by subst hs1; simp
    have hnew := newEvents_eq (s := s) (t := setLevel id cls p nest l s1)
      (l := [.deliver (.arb id cls nest prio) v] ++ (edgeBetween s1 (setLevel id cls p nest l s1) .normal
        ++ edgeBetween s1 (setLevel id cls p nest l s1) .fast)) (by rw [setLevel_trace, ht, List.append_assoc])
    refine ⟨by simp [hl], ?_, by simp [hk], ?_, ?_, ?_, ?_⟩
    · intro i hi
      rw [setLevel_lineAt _ _ _ _ _ _ _ (by rw [hl]; exact hi), hc, hla]
      by_cases h : id = i
      · subst h; simp only [if_true, List.foldl_cons, List.foldl_nil]; exact hp
      · simp [h, drive]
    · intro k
      have hr := setLevel_spec id cls p nest l s1 k
      simp only [Rearbitrated, hk] at hr
      have ho : ∀ k, s.out k = s1.out k := fun k => (out_congr (hk k)).symm
      simp only [List.any_cons, List.any_nil, sinkIsArb, Bool.or_false, if_true]
      exact ⟨hr, setLevel_edgesLead id cls p nest l s1 k [.deliver (.arb id cls nest prio) v]
        (fun k => by simp [edgesOf]) s ho ht⟩
    · rw [setLevel_trace, ht, List.append_assoc]; exact List.prefix_append ..
    · rw [hnew, List.filter_append, List.filter_append, filter_edgeBetween, filter_edgeBetween]; rfl
    · rw [hnew]
      simp only [List.any_append, any_edgeBetween, Bool.or_false]
      simp [Event.isFire]

/-! ### The RequestLine update -/

/-- `SRL_UPDATE` after a write of the record (R111). -/
theorem srlUpdate_spec (r : Nat) (pending enabled : Bool) (priority : Byte) (s : State) (hr : r < s.srl.length) :
    LineWritten r pending enabled priority s (srlUpdate r (s.setSrl r
      { s.srlAt r with pending := pending, enabled := enabled, priority := priority })) := by
  generalize hu : { s.srlAt r with pending := pending, enabled := enabled, priority := priority } = u
  have hlv : u.level = (pending && enabled) := by subst hu; rfl
  have hat : (s.setSrl r u).srlAt r = u := srlAt_setSrl_self s u hr
  have hds : u.deliveredState = (s.srlAt r).deliveredState := by subst hu; rfl
  by_cases he : (s.srlAt r).deliveredState = (pending && enabled)
  · have : srlUpdate r (s.setSrl r u) = s.setSrl r u := by simp [srlUpdate, hat, hlv, hds, he]
    rw [this]
    refine ⟨?_, fun r' h => srlAt_setSrl_ne s u h, by simp, ?_, by simp, by simp, by simp [KeepsRest]⟩
    · rw [hat]; subst hu; simp [he]
    · rw [if_pos he]
      exact Delivered.congr_left (s' := s.setSrl r u) (by simp) (by simp) (by simp) (by simp) (by simp) (.refl _)
  · have hu' : srlUpdate r (s.setSrl r u) = deliver (sinkOfSrl s.cfg r)
        (if pending && enabled then 1 + priority.toNat else 0)
        ((s.setSrl r u).setSrl r { u with deliveredState := pending && enabled }) := by
      have hne : ¬ u.level = u.deliveredState := by rw [hlv, hds]; exact fun h => he h.symm
      have hf : u.forwarded = if pending && enabled then 1 + priority.toNat else 0 := by
        simp only [Srl.forwarded, hlv]; subst hu; rfl
      simp only [srlUpdate, hat, setSrl_cfg]
      rw [if_neg hne, hf, hlv]
    rw [hu']
    refine ⟨?_, fun r' h => ?_, by simp, ?_, by simp, by simp, by simp [KeepsRest]⟩
    · rw [deliver_srlAt, srlAt_setSrl_self _ _ (by simpa using hr)]; subst hu; rfl
    · rw [deliver_srlAt, srlAt_setSrl_ne _ _ h, srlAt_setSrl_ne _ _ h]
    · rw [if_neg he]
      exact Delivered.congr_left (by simp) (by simp) (by simp) (by simp) (by simp) (deliver_spec _ _ _)

/-- `SRL.ASSERT`, `SRL.CLEAR` and a route to a RequestLine (R114, R115, R214). -/
theorem srlSetPending_spec (r : Nat) (p : Bool) (s : State) (hr : r < s.srl.length) :
    LineWritten r p (s.srlAt r).enabled (s.srlAt r).priority s (srlSetPending r p s) :=
  srlUpdate_spec r p (s.srlAt r).enabled (s.srlAt r).priority s hr

/-! ### The bank update -/

theorem bankAggregate_eq (bc : BankConfig) (act : Word) (j : Nat) :
    bankAggregate bc act j = decide (LineActive bc act j) := by
  rw [Bool.eq_iff_iff]
  simp [bankAggregate, and_assoc]

/-- What a bank delivers to its lines below `n` when its latches are `latch` (R125). -/
def bankDeliveries (bc : BankConfig) (act : Word) (latch : List Bool) (n : Nat) : List (Sink × Nat) :=
  (List.range n).filterMap fun j =>
    if decide (LineActive bc act j) = latch[j]?.getD false then none
    else some (bankSink bc j, if LineActive bc act j then 1 else 0)

theorem bankDeliveries_succ (bc : BankConfig) (act : Word) (latch : List Bool) (n : Nat) :
    bankDeliveries bc act latch (n + 1) = bankDeliveries bc act latch n
      ++ if decide (LineActive bc act n) = latch[n]?.getD false then []
        else [(bankSink bc n, if LineActive bc act n then 1 else 0)] := by
  simp only [bankDeliveries, List.range_succ, List.filterMap_append]
  congr 1
  split <;> simp_all

/-- The latches of a bank after its lines below `n` were updated. -/
theorem foldl_srbLineUpdate_spec (b : Nat) (act : Word) (s : State) (hb : b < s.srb.length) (n : Nat)
    (hn : n ≤ (s.srbAt b).deliveredPerLine.length) :
    let t := (List.range n).foldl (srbLineUpdate b act) s
    t.srb.length = s.srb.length ∧ (∀ b', b' ≠ b → t.srbAt b' = s.srbAt b')
      ∧ (t.srbAt b).mask = (s.srbAt b).mask ∧ (t.srbAt b).rawStatus = (s.srbAt b).rawStatus
      ∧ (t.srbAt b).deliveredPerLine = (List.range n).map (fun j => decide (LineActive (bankConfig s.cfg b) act j))
          ++ (s.srbAt b).deliveredPerLine.drop n
      ∧ Delivered (bankDeliveries (bankConfig s.cfg b) act (s.srbAt b).deliveredPerLine n) s t := by
  induction n with
  | zero => exact ⟨rfl, fun _ _ => rfl, rfl, rfl, by simp, .refl s⟩
  | succ n ih =>
    obtain ⟨i1, i2, i3, i4, i5, i6⟩ := ih (by omega)
    simp only [List.range_succ, List.foldl_append, List.foldl_cons, List.foldl_nil]
    have hc : ((List.range n).foldl (srbLineUpdate b act) s).cfg = s.cfg := foldl_srbLineUpdate_cfg ..
    generalize (List.range n).foldl (srbLineUpdate b act) s = t at *
    have hD : (s.srbAt b).deliveredPerLine.drop n
        = (s.srbAt b).deliveredPerLine[n] :: (s.srbAt b).deliveredPerLine.drop (n + 1) :=
      List.drop_eq_getElem_cons (by omega)
    have hget : (t.srbAt b).deliveredPerLine[n]?.getD false = (s.srbAt b).deliveredPerLine[n] := by
      rw [i5, List.getElem?_append_right (by simp), hD]; simp only [List.length_map, List.length_range, Nat.sub_self, List.getElem?_cons_zero, Option.getD_some]
    have hget' : (s.srbAt b).deliveredPerLine[n]?.getD false = (s.srbAt b).deliveredPerLine[n] := by
      simp [List.getElem?_eq_getElem (show n < (s.srbAt b).deliveredPerLine.length by omega)]
    have hset : ∀ v, (t.srbAt b).deliveredPerLine.set n v
        = (List.range n).map (fun j => decide (LineActive (bankConfig s.cfg b) act j))
          ++ v :: (s.srbAt b).deliveredPerLine.drop (n + 1) := fun v => by
      rw [i5, List.set_append_right _ _ (by simp), hD]; simp only [List.length_map, List.length_range, Nat.sub_self, List.set_cons_zero]
    rw [bankDeliveries_succ]
    simp only [srbLineUpdate, hc, bankAggregate_eq, hget, hget']
    by_cases he : decide (LineActive (bankConfig s.cfg b) act n) = (s.srbAt b).deliveredPerLine[n]
    · simp only [he, if_true, List.append_nil]
      exact ⟨i1, i2, i3, i4, by rw [i5, hD]; simp [he], i6⟩
    · simp only [he, if_false]
      refine ⟨by simp [i1], fun b' h => ?_, ?_, ?_, ?_, ?_⟩
      · rw [deliver_srbAt, srbAt_setSrb_ne _ _ h, i2 b' h]
      · rw [deliver_srbAt, srbAt_setSrb_self _ _ (by omega)]; exact i3
      · rw [deliver_srbAt, srbAt_setSrb_self _ _ (by omega)]; exact i4
      · rw [deliver_srbAt, srbAt_setSrb_self _ _ (by omega)]
        simp only [hset]
        simp
      · refine Delivered.trans hc (by simp [hc]) i6 ?_
        have hv : (decide (LineActive (bankConfig s.cfg b) act n)).toNat
            = if LineActive (bankConfig s.cfg b) act n then 1 else 0 := by
          by_cases h : LineActive (bankConfig s.cfg b) act n <;> simp [h]
        rw [hv]
        exact Delivered.congr_left (by simp) (by simp) (by simp) (by simp) (by simp) (deliver_spec _ _ _)

/-- `SRB_UPDATE` after a write of mask and raw status (R125). -/
theorem srbUpdate_spec (b : Nat) (mask rawStatus : Word) (s : State) (hb : b < s.srb.length)
    (hl : (s.srbAt b).deliveredPerLine.length = (bankConfig s.cfg b).nOut) :
    BankWritten b mask rawStatus s
      (srbUpdate b (s.setSrb b { s.srbAt b with mask := mask, rawStatus := rawStatus })) := by
  generalize hu : { s.srbAt b with mask := mask, rawStatus := rawStatus } = u
  have hat : (s.setSrb b u).srbAt b = u := srbAt_setSrb_self s u hb
  have hdl : u.deliveredPerLine = (s.srbAt b).deliveredPerLine := by subst hu; rfl
  have hm : u.mask = mask := by subst hu; rfl
  have hr : u.rawStatus = rawStatus := by subst hu; rfl
  obtain ⟨h1, h2, h3, h4, h5, h6⟩ := foldl_srbLineUpdate_spec b u.active (s.setSrb b u) (by simpa using hb)
    (bankConfig s.cfg b).nOut (by rw [hat, hdl, hl])
  have hupd : srbUpdate b (s.setSrb b u)
      = (List.range (bankConfig s.cfg b).nOut).foldl (srbLineUpdate b u.active) (s.setSrb b u) := by
    simp only [srbUpdate, hat, setSrb_cfg]
  rw [← hupd] at h1 h2 h3 h4 h5 h6
  rw [hat] at h3 h4 h5 h6
  rw [setSrb_cfg] at h5 h6
  have hact : u.active = rawStatus &&& mask := by rw [Srb.active, hm, hr]
  refine ⟨?_, fun b' h => ?_, by rw [h1]; simp, ?_⟩
  · rw [hdl, ← hl, List.drop_length, List.append_nil, hl, hact] at h5
    rw [← h5, ← hm, ← h3, ← hr, ← h4]
  · rw [h2 b' h, srbAt_setSrb_ne _ _ h]
  · rw [hdl, hact] at h6
    exact Delivered.congr_left (by simp) (by simp) (by simp) (by simp) (by simp) h6

theorem srbSetMaskBits_spec (b : Nat) (bits : Word) (s : State) (hb : b < s.srb.length)
    (hl : (s.srbAt b).deliveredPerLine.length = (bankConfig s.cfg b).nOut) :
    BankWritten b (bits &&& (bankConfig s.cfg b).evMask) (s.srbAt b).rawStatus s (srbSetMaskBits b bits s) :=
  srbUpdate_spec b _ _ s hb hl

theorem srbSetRawBits_spec (b : Nat) (bits : Word) (s : State) (hb : b < s.srb.length)
    (hl : (s.srbAt b).deliveredPerLine.length = (bankConfig s.cfg b).nOut) :
    BankWritten b (s.srbAt b).mask ((s.srbAt b).rawStatus ||| (bits &&& (bankConfig s.cfg b).evMask)) s
      (srbSetRawBits b bits s) :=
  srbUpdate_spec b _ _ s hb hl

theorem srbClearRawBits_spec (b : Nat) (bits : Word) (s : State) (hb : b < s.srb.length)
    (hl : (s.srbAt b).deliveredPerLine.length = (bankConfig s.cfg b).nOut) :
    BankWritten b (s.srbAt b).mask ((s.srbAt b).rawStatus &&& ~~~bits) s (srbClearRawBits b bits s) :=
  srbUpdate_spec b _ _ s hb hl

/-! ### The extension -/

/-- `BankWritten` reads of its first state only the banks, the Arbiter, the trace and the configuration. -/
theorem BankWritten.congr_left {b : Nat} {m r : Word} {s s' t : State} (hc : s'.cfg = s.cfg) (hs : s'.srb = s.srb)
    (hl : s'.lines = s.lines) (hn : s'.normal = s.normal) (hf : s'.fast = s.fast) (ht : s'.trace = s.trace)
    (h : BankWritten b m r s' t) : BankWritten b m r s t := by
  obtain ⟨h1, h2, h3, h4⟩ := h
  have hb : ∀ b, s'.srbAt b = s.srbAt b := fun b => by simp [State.srbAt, hs]
  rw [hc] at h1 h4
  rw [hb] at h4
  exact ⟨h1, fun b' h => by rw [h2 b' h, hb], by rw [h3, hs], h4.congr_left hc hl hn hf ht⟩

/-- The shape of every mutating extension operation (R135), for an extension whose parent bit its parent implements. -/
theorem srbxChange_spec (x : Nat) (u : Srbx) (s : State) (hx : x < s.srbx.length)
    (hp : (extConfig s.cfg x).parent < s.srb.length)
    (hl : (s.srbAt (extConfig s.cfg x).parent).deliveredPerLine.length
      = (bankConfig s.cfg (extConfig s.cfg x).parent).nOut)
    (hm : (extConfig s.cfg x).parentEventMask &&& (bankConfig s.cfg (extConfig s.cfg x).parent).evMask
      = (extConfig s.cfg x).parentEventMask) : ExtensionWritten x u s (srbxChange x u s) := by
  have hset := srbSetRawBits_spec (extConfig s.cfg x).parent (extConfig s.cfg x).parentEventMask (s.setSrbx x u)
    (by simpa using hp) (by simpa using hl)
  have hclr := srbClearRawBits_spec (extConfig s.cfg x).parent (extConfig s.cfg x).parentEventMask (s.setSrbx x u)
    (by simpa using hp) (by simpa using hl)
  simp only [setSrbx_cfg, srbAt_setSrbx, hm] at hset hclr
  have hset' := hset.congr_left (s := s) (by simp) (by simp) (by simp) (by simp) (by simp) (by simp)
  have hclr' := hclr.congr_left (s := s) (by simp) (by simp) (by simp) (by simp) (by simp) (by simp)
  have hmid : ∀ P : Prop, ((srbxChange x u s).srbxAt x = u → (∀ x', x' ≠ x → (srbxChange x u s).srbxAt x' = s.srbxAt x')
      → (srbxChange x u s).srbx.length = s.srbx.length → P) → P := fun P h => by
    have hsx : (srbxChange x u s).srbx = s.srbx.set x u := by
      simp only [srbxChange]; split
      · simp
      · split <;> simp
    refine h ?_ ?_ (by rw [hsx]; simp)
    · simp [State.srbxAt, hsx, hx]
    · intro x' h'; simp [State.srbxAt, hsx, List.getElem?_set_ne (Ne.symm h')]
  refine hmid _ fun hx1 hx2 hx3 => ⟨hx1, hx2, hx3, ?_, by simp, by simp [KeepsRest]⟩
  have hb : ∀ v : Srbx, v.aggregate = true ↔ v.rawStatus &&& v.mask ≠ 0#32 := fun v => by
    simp [Srbx.aggregate, Srbx.active]
  by_cases h1 : (s.srbxAt x).rawStatus &&& (s.srbxAt x).mask = 0#32 <;>
    by_cases h2 : u.rawStatus &&& u.mask = 0#32
  · have : srbxChange x u s = s.setSrbx x u := by
      simp [srbxChange, Srbx.aggregate, Srbx.active, h1, h2]
    simp [h1, h2, this]
  · have : srbxChange x u s = srbSetRawBits (extConfig s.cfg x).parent (extConfig s.cfg x).parentEventMask
        (s.setSrbx x u) := by simp [srbxChange, Srbx.aggregate, Srbx.active, h1, h2]
    simp only [h1, h2, this, ne_eq, not_false_eq_true, and_self, if_true]
    exact hset'
  · have : srbxChange x u s = srbClearRawBits (extConfig s.cfg x).parent (extConfig s.cfg x).parentEventMask
        (s.setSrbx x u) := by simp [srbxChange, Srbx.aggregate, Srbx.active, h1, h2]
    simp only [h1, h2, this, ne_eq, not_false_eq_true, not_true_eq_false, and_self, if_true,
      if_false]
    exact hclr'
  · have : srbxChange x u s = s.setSrbx x u := by
      simp [srbxChange, Srbx.aggregate, Srbx.active, h1, h2]
    simp [h1, h2, this]

end Sys2Proof.Machine
end

