-- ==== Sys2Proof/Laws/PerInstr.lean ====
section
/-! SUPPORT. The per-instruction family: every instruction encodes to a command word that its row of the opcode table
selects (R84). -/

namespace Sys2Proof.Laws.EncodesToItsRow

/-- The command word of the instruction is selected by the row of R84 that has its mnemonic. -/
def Statement (i : Instr) : Prop :=
  ∃ row ∈ opcodeRows, row.mnemonic = i.mnemonic ∧ (encode i).1 &&& row.mask = row.pattern

theorem clcInit (c : Nat) : Statement (.clcInit c) :=
  ⟨⟨"CLC.INIT", 0x00000000#32, 0xFFFF0000#32, 0#64⟩, by decide, rfl,
    (cmdWord_and_unit ..).trans (by decide)⟩

theorem clcSet (c : Nat) (value : Word) : Statement (.clcSet c value) :=
  ⟨⟨"CLC.SET", 0x01000000#32, 0xFFFF0000#32, 0xFFFFFFFF#64⟩, by decide, rfl,
    (cmdWord_and_unit ..).trans (by decide)⟩

theorem clcGet (c : Nat) : Statement (.clcGet c) :=
  ⟨⟨"CLC.GET", 0x02000000#32, 0xFFFF0000#32, 0#64⟩, by decide, rfl,
    (cmdWord_and_unit ..).trans (by decide)⟩

theorem clcIsen (c : Nat) : Statement (.clcIsen c) :=
  ⟨⟨"CLC.ISEN", 0x03000000#32, 0xFFFF0000#32, 0#64⟩, by decide, rfl,
    (cmdWord_and_unit ..).trans (by decide)⟩

theorem clcGetpre (c : Nat) : Statement (.clcGetpre c) :=
  ⟨⟨"CLC.GETPRE", 0x04000000#32, 0xFFFF0000#32, 0#64⟩, by decide, rfl,
    (cmdWord_and_unit ..).trans (by decide)⟩

theorem srlSet (r : Nat) (w : Half) : Statement (.srlSet r w) :=
  ⟨⟨"SRL.SET", 0x11000000#32, 0xFFFF0000#32, 0xFFFF#64⟩, by decide, rfl,
    (cmdWord_and_unit ..).trans (by decide)⟩

theorem srlGet (r : Nat) : Statement (.srlGet r) :=
  ⟨⟨"SRL.GET", 0x12000000#32, 0xFFFF0000#32, 0#64⟩, by decide, rfl,
    (cmdWord_and_unit ..).trans (by decide)⟩

theorem srlAssert (r : Nat) : Statement (.srlAssert r) :=
  ⟨⟨"SRL.ASSERT", 0x13000000#32, 0xFFFF0000#32, 0#64⟩, by decide, rfl,
    (cmdWord_and_unit ..).trans (by decide)⟩

theorem srlClear (r : Nat) : Statement (.srlClear r) :=
  ⟨⟨"SRL.CLEAR", 0x14000000#32, 0xFFFF0000#32, 0#64⟩, by decide, rfl,
    (cmdWord_and_unit ..).trans (by decide)⟩

theorem srbSetmask (b : Nat) (bits : Word) : Statement (.srbSetmask b bits) :=
  ⟨⟨"SRB.SETMASK", 0x21000000#32, 0xFFFF0000#32, 0xFFFFFFFF#64⟩, by decide, rfl,
    (cmdWord_and_unit ..).trans (by decide)⟩

theorem srbSetraw (b : Nat) (bits : Word) : Statement (.srbSetraw b bits) :=
  ⟨⟨"SRB.SETRAW", 0x22000000#32, 0xFFFF0000#32, 0xFFFFFFFF#64⟩, by decide, rfl,
    (cmdWord_and_unit ..).trans (by decide)⟩

theorem srbClearraw (b : Nat) (bits : Word) : Statement (.srbClearraw b bits) :=
  ⟨⟨"SRB.CLEARRAW", 0x23000000#32, 0xFFFF0000#32, 0xFFFFFFFF#64⟩, by decide, rfl,
    (cmdWord_and_unit ..).trans (by decide)⟩

theorem srbGetmask (b : Nat) : Statement (.srbGetmask b) :=
  ⟨⟨"SRB.GETMASK", 0x24000000#32, 0xFFFF0000#32, 0#64⟩, by decide, rfl,
    (cmdWord_and_unit ..).trans (by decide)⟩

theorem srbGetraw (b : Nat) : Statement (.srbGetraw b) :=
  ⟨⟨"SRB.GETRAW", 0x25000000#32, 0xFFFF0000#32, 0#64⟩, by decide, rfl,
    (cmdWord_and_unit ..).trans (by decide)⟩

theorem srbGetmis (b : Nat) : Statement (.srbGetmis b) :=
  ⟨⟨"SRB.GETMIS", 0x26000000#32, 0xFFFF0000#32, 0#64⟩, by decide, rfl,
    (cmdWord_and_unit ..).trans (by decide)⟩

theorem srbxSetmask (x : Nat) (bits : Word) : Statement (.srbxSetmask x bits) :=
  ⟨⟨"SRBX.SETMASK", 0x31000000#32, 0xFFFF0000#32, 0xFFFFFFFF#64⟩, by decide, rfl,
    (cmdWord_and_unit ..).trans (by decide)⟩

theorem srbxSetraw (x : Nat) (bits : Word) : Statement (.srbxSetraw x bits) :=
  ⟨⟨"SRBX.SETRAW", 0x32000000#32, 0xFFFF0000#32, 0xFFFFFFFF#64⟩, by decide, rfl,
    (cmdWord_and_unit ..).trans (by decide)⟩

theorem srbxClearraw (x : Nat) (bits : Word) : Statement (.srbxClearraw x bits) :=
  ⟨⟨"SRBX.CLEARRAW", 0x33000000#32, 0xFFFF0000#32, 0xFFFFFFFF#64⟩, by decide, rfl,
    (cmdWord_and_unit ..).trans (by decide)⟩

theorem srbxGetmask (x : Nat) : Statement (.srbxGetmask x) :=
  ⟨⟨"SRBX.GETMASK", 0x34000000#32, 0xFFFF0000#32, 0#64⟩, by decide, rfl,
    (cmdWord_and_unit ..).trans (by decide)⟩

theorem srbxGetraw (x : Nat) : Statement (.srbxGetraw x) :=
  ⟨⟨"SRBX.GETRAW", 0x35000000#32, 0xFFFF0000#32, 0#64⟩, by decide, rfl,
    (cmdWord_and_unit ..).trans (by decide)⟩

theorem srbxGetmis (x : Nat) : Statement (.srbxGetmis x) :=
  ⟨⟨"SRBX.GETMIS", 0x36000000#32, 0xFFFF0000#32, 0#64⟩, by decide, rfl,
    (cmdWord_and_unit ..).trans (by decide)⟩

theorem arbSetlevel (id : Nat) (cls : IrqClass) (priority nestWeight : Byte) (level : Bool) : Statement (.arbSetlevel id cls priority nestWeight level) :=
  ⟨⟨"ARB.SETLEVEL", 0x41000000#32, 0xFFFE0000#32, 0x1FFFF#64⟩, by decide, rfl,
    (cmdWord_and_class ..).trans (by decide)⟩

theorem arbTake (cls : IrqClass) : Statement (.arbTake cls) :=
  ⟨⟨"ARB.TAKE", 0x42000000#32, 0xFFFEFFFF#32, 0#64⟩, by decide, rfl,
    (cmdWord_and_class_idx ..).trans (by decide)⟩

theorem arbAck (cls : IrqClass) : Statement (.arbAck cls) :=
  ⟨⟨"ARB.ACK", 0x43000000#32, 0xFFFEFFFF#32, 0#64⟩, by decide, rfl,
    (cmdWord_and_class_idx ..).trans (by decide)⟩

theorem arbSetmask (cls : IrqClass) (enable : Bool) (n : Byte) : Statement (.arbSetmask cls enable n) :=
  ⟨⟨"ARB.SETMASK", 0x44000000#32, 0xFFFEFFFF#32, 0x1FF#64⟩, by decide, rfl,
    (cmdWord_and_class_idx ..).trans (by decide)⟩

theorem vctStart (t : Nat) : Statement (.vctStart t) :=
  ⟨⟨"VCT.START", 0x51000000#32, 0xFFFF0000#32, 0#64⟩, by decide, rfl,
    (cmdWord_and_unit ..).trans (by decide)⟩

theorem vctStop (t : Nat) : Statement (.vctStop t) :=
  ⟨⟨"VCT.STOP", 0x52000000#32, 0xFFFF0000#32, 0#64⟩, by decide, rfl,
    (cmdWord_and_unit ..).trans (by decide)⟩

theorem vctReset (t : Nat) : Statement (.vctReset t) :=
  ⟨⟨"VCT.RESET", 0x53000000#32, 0xFFFF0000#32, 0#64⟩, by decide, rfl,
    (cmdWord_and_unit ..).trans (by decide)⟩

theorem vctSetfreq (t : Nat) (hz : Nat) : Statement (.vctSetfreq t hz) :=
  ⟨⟨"VCT.SETFREQ", 0x54000000#32, 0xFFFF0000#32, 0xFFFFFFFFFFFFFFFF#64⟩, by decide, rfl,
    (cmdWord_and_unit ..).trans (by decide)⟩

theorem vctSetovf (t : Nat) (modulus : Nat) : Statement (.vctSetovf t modulus) :=
  ⟨⟨"VCT.SETOVF", 0x55000000#32, 0xFFFF0000#32, 0xFFFFFFFFFFFFFFFF#64⟩, by decide, rfl,
    (cmdWord_and_unit ..).trans (by decide)⟩

theorem vctSetalarm (t : Nat) (alarm : Nat) (ticks : Nat) : Statement (.vctSetalarm t alarm ticks) :=
  ⟨⟨"VCT.SETALARM", 0x56000000#32, 0xFF000000#32, 0xFFFFFFFFFFFFFFFF#64⟩, by decide, rfl,
    (cmdWord_and_op ..).trans (by decide)⟩

theorem vctTick (t : Nat) : Statement (.vctTick t) :=
  ⟨⟨"VCT.TICK", 0x57000000#32, 0xFFFF0000#32, 0#64⟩, by decide, rfl,
    (cmdWord_and_unit ..).trans (by decide)⟩

theorem vctGetcnt (t : Nat) : Statement (.vctGetcnt t) :=
  ⟨⟨"VCT.GETCNT", 0x58000000#32, 0xFFFF0000#32, 0#64⟩, by decide, rfl,
    (cmdWord_and_unit ..).trans (by decide)⟩

theorem vctNext (t : Nat) : Statement (.vctNext t) :=
  ⟨⟨"VCT.NEXT", 0x59000000#32, 0xFFFF0000#32, 0#64⟩, by decide, rfl,
    (cmdWord_and_unit ..).trans (by decide)⟩

end Sys2Proof.Laws.EncodesToItsRow
end

