-- ==== Sys2Proof/Laws/Timer.lean ====
section
/-! SUPPORT. The timer's arithmetic (R175 to R178), and what a callback, an alarm pass and a scheduling pass can do
(R179, R187, R214). -/

namespace Sys2Proof.Machine

/-! ### Counting and reaching -/

theorem ceilDiv_le_iff {a b : Nat} (hb : 0 < b) (u : Nat) : ceilDiv a b ≤ u ↔ a ≤ u * b := by
  unfold ceilDiv
  rw [Nat.div_le_iff_le_mul_add_pred hb, Nat.mul_comm b u]
  omega

/-- The rate is `f` exactly for a running timer of nonzero frequency `f` (R175). -/
theorem Vct.rate_eq_some {T : Vct} {f : Nat} :
    T.rate = some f ↔ T.running = true ∧ T.frequencyHz = some f ∧ f ≠ 0 := by
  unfold Vct.rate
  cases T.running <;> cases h : T.frequencyHz <;> simp
  rename_i g
  constructor
  · rintro ⟨h, rfl⟩; exact ⟨rfl, h⟩
  · rintro ⟨rfl, h⟩; exact ⟨h, rfl⟩

theorem Vct.count_of_rate {T : Vct} {f : Nat} (h : T.rate = some f) (now : Nat) :
    T.count now = T.counterBase + (now - T.baseTimestamp) * f / nsPerSecond := by simp [Vct.count, h]

theorem Vct.count_of_none {T : Vct} (h : T.rate = none) (now : Nat) : T.count now = T.counterBase := by
  simp [Vct.count, h]

/-- The counter in closed form (R31). -/
theorem Vct.count_eq_counterAt (T : Vct) (now : Nat) : T.count now = T.counterAt now := by
  unfold Vct.count Vct.rate Vct.counterAt nsPerSecond
  cases T.running <;> cases h : T.frequencyHz <;> simp
  rename_i f
  by_cases hf : f = 0 <;> simp [hf]

theorem Vct.rate_ne_none_iff {T : Vct} : T.rate ≠ none ↔ T.Counting := by
  unfold Vct.rate
  cases hr : T.running <;> cases h : T.frequencyHz <;> simp [Vct.Counting, h, hr]

theorem Vct.rate_none_of_stopped {T : Vct} (h : T.running = false) : T.rate = none := by simp [Vct.rate, h]

/-- The counter never runs backward (R190 (b)). -/
theorem Vct.count_mono (T : Vct) {u v : Nat} (h : u ≤ v) : T.count u ≤ T.count v := by
  unfold Vct.count
  split
  · exact Nat.add_le_add_left (Nat.div_le_div_right (Nat.mul_le_mul_right _ (by omega))) _
  · exact Nat.le_refl _

theorem Vct.counterBase_le_count (T : Vct) (now : Nat) : T.counterBase ≤ T.count now := by
  unfold Vct.count; split
  · exact Nat.le_add_right ..
  · exact Nat.le_refl _

/-- `reach(t, X)` is the first instant at which the counter is at least `X` (R177). -/
theorem Vct.reach_le_iff {T : Vct} {f : Nat} (h : T.rate = some f) (X u : Nat) (hu : T.baseTimestamp ≤ u) :
    T.reach f X ≤ u ↔ X ≤ T.count u := by
  rw [Vct.count_of_rate h, Vct.reach]
  have hf : 0 < f := Nat.pos_of_ne_zero (Vct.rate_eq_some.mp h).2.2
  have hns : 0 < nsPerSecond := by decide
  rw [show T.baseTimestamp + ceilDiv ((X - T.counterBase) * nsPerSecond) f ≤ u
      ↔ ceilDiv ((X - T.counterBase) * nsPerSecond) f ≤ u - T.baseTimestamp by omega,
    ceilDiv_le_iff hf, ← Nat.le_div_iff_mul_le hns]
  generalize (u - T.baseTimestamp) * f / nsPerSecond = q
  omega

theorem Vct.baseTimestamp_le_reach (T : Vct) (f X : Nat) : T.baseTimestamp ≤ T.reach f X := Nat.le_add_right ..

/-! ### The deadline -/

theorem Vct.mem_targets {T : Vct} {X : Nat} :
    X ∈ T.targets ↔ X ∈ T.overflowModulus ∨ ∃ a ∈ T.alarms, a.fired = false ∧ X ∈ a.threshold := by
  simp only [Vct.targets, List.mem_append, Option.mem_toList, List.mem_filterMap]
  apply or_congr Iff.rfl
  apply exists_congr
  intro a
  apply and_congr Iff.rfl
  cases a.fired <;> simp

theorem Vct.eventAt_iff {T : Vct} {c : Nat} : T.EventAt c ↔ ∃ X ∈ T.targets, X ≤ c := by
  constructor
  · rintro (⟨m, hm, hc⟩ | ⟨a, ha, hf, x, hx, hc⟩)
    · exact ⟨m, Vct.mem_targets.mpr (.inl hm), hc⟩
    · exact ⟨x, Vct.mem_targets.mpr (.inr ⟨a, ha, hf, hx⟩), hc⟩
  · rintro ⟨X, hX, hc⟩
    rcases Vct.mem_targets.mp hX with h | ⟨a, ha, hf, hx⟩
    · exact .inl ⟨X, h, hc⟩
    · exact .inr ⟨a, ha, hf, X, hx, hc⟩

/-- The deadline `SCHEDULE` computes, at or after the last rebase, for a timer with a modulus (R178). -/
theorem Vct.armAt_spec {T : Vct} {f now : Nat} (h : T.rate = some f) (hm : T.overflowModulus ≠ none)
    (hb : T.baseTimestamp ≤ now) :
    ∃ d, T.armAt now = some d ∧ now ≤ d ∧ T.EventAt (T.count d) ∧ ∀ u, now ≤ u → u < d → ¬ T.EventAt (T.count u) := by
  obtain ⟨m, hm⟩ := Option.ne_none_iff_exists'.mp hm
  have hne : (T.targets.map (T.offset f now)).min? ≠ none := by
    rw [Ne, List.min?_eq_none_iff, List.map_eq_nil_iff]
    exact List.ne_nil_of_mem (Vct.mem_targets.mpr (.inl hm))
  obtain ⟨k, hk⟩ := Option.ne_none_iff_exists'.mp hne
  obtain ⟨hmem, hmin⟩ := List.min?_eq_some_iff.mp hk
  obtain ⟨X, hX, hXk⟩ := List.mem_map.mp hmem
  refine ⟨now + k, by simp [Vct.armAt, h, hk], Nat.le_add_right .., ?_, ?_⟩
  · refine Vct.eventAt_iff.mpr ⟨X, hX, (Vct.reach_le_iff h X (now + k) (by omega)).mp ?_⟩
    simp only [Vct.offset] at hXk; omega
  · rintro u hu hud hev
    obtain ⟨Y, hY, hYu⟩ := Vct.eventAt_iff.mp hev
    have h1 := (Vct.reach_le_iff h Y u (by omega)).mpr hYu
    have h2 := hmin _ (List.mem_map_of_mem hY)
    simp only [Vct.offset] at h2; omega

theorem Vct.armAt_none {T : Vct} (h : T.rate = none) (now : Nat) : T.armAt now = none := by simp [Vct.armAt, h]

/-- The deadline of `SCHEDULE` is exact. -/
theorem Vct.armedExactly {T : Vct} {now : Nat} (hw : T.running = true → T.overflowModulus ≠ none)
    (hb : T.baseTimestamp ≤ now) (d : Option Nat) (hd : d = T.armAt now) :
    Vct.ArmedExactly { T with deadline := d } now := by
  subst hd
  unfold Vct.ArmedExactly
  have hr : Vct.rate { T with deadline := T.armAt now } = T.rate := rfl
  by_cases hc : T.Counting
  · rw [if_pos hc]
    obtain ⟨f, hf⟩ := Option.ne_none_iff_exists'.mp (Vct.rate_ne_none_iff.mpr hc)
    obtain ⟨d, h1, h2, h3, h4⟩ := Vct.armAt_spec hf (hw hc.1) hb
    rw [Vct.count_eq_counterAt] at h3
    exact ⟨d, h1, h2, h3, fun u h h' => by have := h4 u h h'; rwa [Vct.count_eq_counterAt] at this⟩
  · rw [if_neg hc]
    exact Vct.armAt_none (not_not.mp (mt Vct.rate_ne_none_iff.mp hc)) now

theorem Vct.written_iff {T : Vct} : T.written = true ↔ T.Written := by
  simp [Vct.written, Vct.Written, and_assoc, Option.isSome_iff_ne_none]

/-! ### The routes read neither the timers nor the globals -/

/-- The state with the parts replaced that no delivery reads. -/
def State.withRest (s : State) (clc : List Clc) (vct : List Vct) (fault : Option FaultRecord) (now : Nat)
    (resp : Option DoubleWord) (inputs : List Input) : State :=
  { s with clc := clc, vct := vct, fault := fault, now := now, resp := resp, inputs := inputs }

section
variable (clc : List Clc) (vct : List Vct) (fault : Option FaultRecord) (now : Nat) (resp : Option DoubleWord)
  (inputs : List Input)

theorem setVct_eq_withRest (s : State) (t : Nat) (T : Vct) :
    s.setVct t T = s.withRest s.clc (s.vct.set t T) s.fault s.now s.resp s.inputs := rfl

theorem arbitrate_withRest (k : IrqClass) (s : State) : arbitrate k (s.withRest clc vct fault now resp inputs)
    = (arbitrate k s).withRest clc vct fault now resp inputs := by
  have hb : best (s.withRest clc vct fault now resp inputs) k = best s k := rfl
  simp only [arbitrate, hb, emitEdge]
  cases k
  · show (if State.out (select .normal (best s .normal) s) .normal = s.out .normal then _ else _) = _
    split <;> rfl
  · show (if State.out (select .fast (best s .fast) s) .fast = s.out .fast then _ else _) = _
    split <;> rfl

theorem rearbitrate_withRest (k : IrqClass) (s : State) : rearbitrate k (s.withRest clc vct fault now resp inputs)
    = (rearbitrate k s).withRest clc vct fault now resp inputs := by
  have h : (s.withRest clc vct fault now resp inputs).classAt k = s.classAt k := by cases k <;> rfl
  simp only [rearbitrate, h, arbitrate_withRest]
  split <;> rfl

theorem setLevel_withRest (id : Nat) (cls : IrqClass) (p n : Byte) (l : Bool) (s : State) :
    setLevel id cls p n l (s.withRest clc vct fault now resp inputs)
      = (setLevel id cls p n l s).withRest clc vct fault now resp inputs := by
  have h : (s.withRest clc vct fault now resp inputs).setLine id (newLine s.cfg.nestEnabled cls p n l)
    = (s.setLine id (newLine s.cfg.nestEnabled cls p n l)).withRest clc vct fault now resp inputs := rfl
  have hc : (s.withRest clc vct fault now resp inputs).cfg = s.cfg := rfl
  simp only [setLevel, hc, h, rearbitrate_withRest]

theorem deliver_withRest (sink : Sink) (v : Nat) (s : State) : deliver sink v (s.withRest clc vct fault now resp inputs)
    = (deliver sink v s).withRest clc vct fault now resp inputs := by
  cases sink with
  | ext n => rfl
  | arb id cls nest prio =>
    have h : (s.withRest clc vct fault now resp inputs).emit (.deliver (.arb id cls nest prio) v)
      = (s.emit (.deliver (.arb id cls nest prio) v)).withRest clc vct fault now resp inputs := rfl
    have hl : ∀ (u : State) i, (u.withRest clc vct fault now resp inputs).lineAt i = u.lineAt i := fun _ _ => rfl
    simp only [deliver, h, hl, setLevel_withRest]
    split <;> rfl

theorem srlUpdate_withRest (r : Nat) (s : State) : srlUpdate r (s.withRest clc vct fault now resp inputs)
    = (srlUpdate r s).withRest clc vct fault now resp inputs := by
  have h : (s.withRest clc vct fault now resp inputs).srlAt r = s.srlAt r := rfl
  have hc : (s.withRest clc vct fault now resp inputs).cfg = s.cfg := rfl
  have hs : ∀ u, (s.withRest clc vct fault now resp inputs).setSrl r u
    = (s.setSrl r u).withRest clc vct fault now resp inputs := fun _ => rfl
  simp only [srlUpdate, h, hc, hs, deliver_withRest]
  split <;> rfl

theorem srbLineUpdate_withRest (b : Nat) (act : Word) (j : Nat) (s : State) :
    srbLineUpdate b act (s.withRest clc vct fault now resp inputs) j
      = (srbLineUpdate b act s j).withRest clc vct fault now resp inputs := by
  have h : (s.withRest clc vct fault now resp inputs).srbAt b = s.srbAt b := rfl
  have hc : (s.withRest clc vct fault now resp inputs).cfg = s.cfg := rfl
  have hs : ∀ u, (s.withRest clc vct fault now resp inputs).setSrb b u
    = (s.setSrb b u).withRest clc vct fault now resp inputs := fun _ => rfl
  simp only [srbLineUpdate, h, hc, hs, deliver_withRest]
  split <;> rfl

theorem srbUpdate_withRest (b : Nat) (s : State) : srbUpdate b (s.withRest clc vct fault now resp inputs)
    = (srbUpdate b s).withRest clc vct fault now resp inputs := by
  have h : (s.withRest clc vct fault now resp inputs).srbAt b = s.srbAt b := rfl
  have hc : (s.withRest clc vct fault now resp inputs).cfg = s.cfg := rfl
  have hf : ∀ (js : List Nat) (act : Word) (u : State),
      js.foldl (srbLineUpdate b act) (u.withRest clc vct fault now resp inputs)
        = (js.foldl (srbLineUpdate b act) u).withRest clc vct fault now resp inputs := by
    intro js act
    induction js with
    | nil => intro u; rfl
    | cons j js ih => intro u; rw [List.foldl_cons, srbLineUpdate_withRest, ih, List.foldl_cons]
  simp only [srbUpdate, h, hc, hf]

theorem srbSetRawBits_withRest (b : Nat) (bits : Word) (s : State) :
    srbSetRawBits b bits (s.withRest clc vct fault now resp inputs)
      = (srbSetRawBits b bits s).withRest clc vct fault now resp inputs := by
  rw [srbSetRawBits, srbSetRawBits, ← srbUpdate_withRest]; rfl

theorem srbClearRawBits_withRest (b : Nat) (bits : Word) (s : State) :
    srbClearRawBits b bits (s.withRest clc vct fault now resp inputs)
      = (srbClearRawBits b bits s).withRest clc vct fault now resp inputs := by
  rw [srbClearRawBits, srbClearRawBits, ← srbUpdate_withRest]; rfl

theorem srbxChange_withRest (x : Nat) (u : Srbx) (s : State) :
    srbxChange x u (s.withRest clc vct fault now resp inputs)
      = (srbxChange x u s).withRest clc vct fault now resp inputs := by
  have h : (s.withRest clc vct fault now resp inputs).srbxAt x = s.srbxAt x := rfl
  have hc : (s.withRest clc vct fault now resp inputs).cfg = s.cfg := rfl
  have hs : (s.withRest clc vct fault now resp inputs).setSrbx x u
    = (s.setSrbx x u).withRest clc vct fault now resp inputs := rfl
  simp only [srbxChange, h, hc, hs, srbSetRawBits_withRest, srbClearRawBits_withRest]
  split
  · rfl
  · split <;> rfl

theorem performRoute_withRest (route : Route) (s : State) :
    performRoute route (s.withRest clc vct fault now resp inputs)
      = (performRoute route s).withRest clc vct fault now resp inputs := by
  cases route with
  | none => rfl
  | srl r =>
    rw [performRoute, performRoute, srlSetPending, srlSetPending, ← srlUpdate_withRest]; rfl
  | srb b bits => exact srbSetRawBits_withRest ..
  | srbx x bits =>
    rw [performRoute, performRoute, srbxSetRawBits, srbxSetRawBits, ← srbxChange_withRest]; rfl

theorem fire_withRest (t : Nat) (k : Callback) (s : State) : fire t k (s.withRest clc vct fault now resp inputs)
    = (fire t k s).withRest clc vct fault now resp inputs := by
  rw [fire, fire, ← performRoute_withRest]; rfl

end

/-! ### Callbacks in sequence -/

@[simp] theorem fireAll_nil (t : Nat) (s : State) : fireAll t [] s = s := rfl
theorem fireAll_cons (t : Nat) (k : Callback) (ks : List Callback) (s : State) :
    fireAll t (k :: ks) s = fireAll t ks (fire t k s) := rfl
theorem fireAll_append (t : Nat) (ks ls : List Callback) (s : State) :
    fireAll t (ks ++ ls) s = fireAll t ls (fireAll t ks s) := List.foldl_append

@[simp] theorem fireAll_cfg (t : Nat) (ks : List Callback) (s : State) : (fireAll t ks s).cfg = s.cfg := by
  induction ks generalizing s with
  | nil => rfl
  | cons k ks ih => rw [fireAll_cons, ih, fire_cfg]
@[simp] theorem fireAll_clc (t : Nat) (ks : List Callback) (s : State) : (fireAll t ks s).clc = s.clc := by
  induction ks generalizing s with
  | nil => rfl
  | cons k ks ih => rw [fireAll_cons, ih, fire_clc]
@[simp] theorem fireAll_vct (t : Nat) (ks : List Callback) (s : State) : (fireAll t ks s).vct = s.vct := by
  induction ks generalizing s with
  | nil => rfl
  | cons k ks ih => rw [fireAll_cons, ih, fire_vct]
@[simp] theorem fireAll_fault (t : Nat) (ks : List Callback) (s : State) : (fireAll t ks s).fault = s.fault := by
  induction ks generalizing s with
  | nil => rfl
  | cons k ks ih => rw [fireAll_cons, ih, fire_fault]
@[simp] theorem fireAll_now (t : Nat) (ks : List Callback) (s : State) : (fireAll t ks s).now = s.now := by
  induction ks generalizing s with
  | nil => rfl
  | cons k ks ih => rw [fireAll_cons, ih, fire_now]
@[simp] theorem fireAll_resp (t : Nat) (ks : List Callback) (s : State) : (fireAll t ks s).resp = s.resp := by
  induction ks generalizing s with
  | nil => rfl
  | cons k ks ih => rw [fireAll_cons, ih, fire_resp]
@[simp] theorem fireAll_inputs (t : Nat) (ks : List Callback) (s : State) : (fireAll t ks s).inputs = s.inputs := by
  induction ks generalizing s with
  | nil => rfl
  | cons k ks ih => rw [fireAll_cons, ih, fire_inputs]

theorem fireAll_withRest (clc : List Clc) (vct : List Vct) (fault : Option FaultRecord) (now : Nat)
    (resp : Option DoubleWord) (inputs : List Input) (t : Nat) (ks : List Callback) (s : State) :
    fireAll t ks (s.withRest clc vct fault now resp inputs)
      = (fireAll t ks s).withRest clc vct fault now resp inputs := by
  induction ks generalizing s with
  | nil => rfl
  | cons k ks ih => rw [fireAll_cons, fire_withRest, ih, fireAll_cons]

theorem fireAll_setVct (t t' : Nat) (ks : List Callback) (T : Vct) (s : State) :
    fireAll t ks (s.setVct t' T) = (fireAll t ks s).setVct t' T := by
  rw [setVct_eq_withRest, fireAll_withRest, setVct_eq_withRest]
  simp

theorem fire_setVct (t t' : Nat) (k : Callback) (T : Vct) (s : State) :
    fire t k (s.setVct t' T) = (fire t k s).setVct t' T := fireAll_setVct t t' [k] T s

theorem setVct_setVct (s : State) (t : Nat) (T U : Vct) : (s.setVct t T).setVct t U = s.setVct t U := by
  simp [State.setVct]

theorem setVct_self (s : State) (t : Nat) : s.setVct t (s.vctAt t) = s := by
  have : s.vct.set t (s.vctAt t) = s.vct := by
    apply List.ext_getElem?
    intro i
    rw [List.getElem?_set]
    split
    · rename_i h; subst h
      split
      · rename_i h; simp [State.vctAt, h]
      · rename_i h; simp [List.getElem?_eq_none (Nat.le_of_not_lt h)]
    · rfl
  simp [State.setVct, this]

/-! ### The alarm pass -/

/-- The callbacks of an alarm pass at count `c` (R179): the reached alarms, in ascending order. -/
def firedAlarms (alarms : List Alarm) (c : Nat) : List Callback :=
  ((List.range alarms.length).filter fun i => (alarms[i]?.getD Alarm.reset).reached c).map .alarm

/-- The alarms below `n` after a pass at count `c`, the others as before. -/
def passedBelow (alarms : List Alarm) (c n : Nat) : List Alarm :=
  (alarms.take n).map (·.afterPass c) ++ alarms.drop n

theorem passedBelow_succ (alarms : List Alarm) (c n : Nat) (hn : n < alarms.length) :
    (passedBelow alarms c n)[n]?.getD Alarm.reset = alarms[n]
      ∧ passedBelow alarms c (n + 1) = (passedBelow alarms c n).set n (alarms[n].afterPass c) := by
  have hl : ((alarms.take n).map (·.afterPass c)).length = n := by simp; omega
  have hd : alarms.drop n = alarms[n] :: alarms.drop (n + 1) := List.drop_eq_getElem_cons hn
  constructor
  · rw [passedBelow, List.getElem?_append_right (by omega), hl, hd]
    simp only [Nat.sub_self, List.getElem?_cons_zero, Option.getD_some]
  · rw [passedBelow, passedBelow, List.set_append_right _ _ (by omega), hl, hd]
    simp only [Nat.sub_self, List.set_cons_zero, List.take_add_one, List.getElem?_eq_getElem hn, Option.toList_some,
      List.map_append, List.map_cons, List.map_nil, List.append_assoc, List.cons_append, List.nil_append]

/-- `ALARMPASS(t, c)` (R179): exactly the reached alarms fire, in ascending order, and are marked fired. -/
theorem alarmPass_spec (t c : Nat) (s : State) (ht : t < s.vct.length)
    (hl : (s.vctAt t).alarms.length = alarmCount s.cfg t) :
    alarmPass t c s = (fireAll t (firedAlarms (s.vctAt t).alarms c) s).setVct t
      { s.vctAt t with alarms := (s.vctAt t).alarms.map (·.afterPass c) } := by
  have key : ∀ n ≤ (s.vctAt t).alarms.length, (List.range n).foldl (alarmStep t c) s
      = (fireAll t (((List.range n).filter fun i =>
          ((s.vctAt t).alarms[i]?.getD Alarm.reset).reached c).map .alarm) s).setVct t
        { s.vctAt t with alarms := passedBelow (s.vctAt t).alarms c n } := by
    intro n
    induction n with
    | zero =>
      intro _
      have := setVct_self s t
      simpa [passedBelow] using this.symm
    | succ n ih =>
      intro hn
      have hn' : n < (s.vctAt t).alarms.length := by omega
      rw [List.range_succ, List.foldl_append, ih (by omega), List.filter_append, List.map_append, fireAll_append]
      generalize ((List.range n).filter fun i =>
          ((s.vctAt t).alarms[i]?.getD Alarm.reset).reached c).map Callback.alarm = ks
      simp only [List.foldl_cons, List.foldl_nil, alarmStep]
      rw [vctAt_setVct_self _ _ (by simpa using ht)]
      obtain ⟨h1, h2⟩ := passedBelow_succ (s.vctAt t).alarms c n hn'
      simp only [h1, List.filter_cons, List.filter_nil, List.getElem?_eq_getElem hn', Option.getD_some]
      by_cases hr : (s.vctAt t).alarms[n].reached c = true
      · simp only [hr, if_true]
        rw [setVct_setVct, fire_setVct, h2]; rfl
      · simp only [hr]
        have : (s.vctAt t).alarms[n].afterPass c = (s.vctAt t).alarms[n] := by simp [Alarm.afterPass, hr]
        have hself : (passedBelow (s.vctAt t).alarms c n).set n (s.vctAt t).alarms[n]
            = passedBelow (s.vctAt t).alarms c n := by
          apply List.ext_getElem?
          intro i
          rw [List.getElem?_set]
          split
          · rename_i h; subst h
            have hlen : n < (passedBelow (s.vctAt t).alarms c n).length := by simp [passedBelow]; omega
            rw [List.getElem?_eq_getElem hlen] at h1 ⊢
            simp only [Option.getD_some] at h1
            simp [hlen, h1]
          · rfl
        rw [h2, this, hself]; rfl
  have := key _ (Nat.le_refl _)
  rw [alarmPass, ← hl, this]
  simp [passedBelow, firedAlarms]

/-! ### The scheduling pass -/

/-- A count reaches an alarm in a pass when the count is at its threshold and the threshold is not above the modulus
(R274). -/
theorem Vct.le_alarmCountAt {T : Vct} {c x : Nat} :
    x ≤ T.alarmCountAt c ↔ x ≤ c ∧ ∀ m ∈ T.overflowModulus, x ≤ m := by
  unfold Vct.alarmCountAt
  cases T.overflowModulus <;> simp

/-- Short of the modulus a pass holds the count itself against the alarms. -/
theorem Vct.alarmCountAt_of_not_overflows {T : Vct} {c : Nat} (h : T.overflows c = false) : T.alarmCountAt c = c := by
  unfold Vct.overflows at h
  unfold Vct.alarmCountAt
  split at h <;> simp_all
  omega

/-- The callbacks of a scheduling pass (R187): the reached alarms; if the counter has reached the modulus, the overflow
and then the alarms of threshold 0. -/
def passCallbacks (T : Vct) (now : Nat) : List Callback :=
  firedAlarms T.alarms (T.alarmCountAt (T.count now))
    ++ if T.overflows (T.count now) then .overflow :: firedAlarms T.clearFired.alarms 0 else []

/-- The timer after a scheduling pass (R187), before it is scheduled. -/
def Vct.afterPass (T : Vct) (now : Nat) : Vct :=
  if T.overflows (T.count now) then
    { T with counterBase := 0, baseTimestamp := now, alarms := T.clearFired.alarms.map (·.afterPass 0) }
  else { T with alarms := T.alarms.map (·.afterPass (T.alarmCountAt (T.count now))) }

theorem clearFired_map_afterPass (alarms : List Alarm) (c : Nat) :
    (alarms.map (·.afterPass c)).map (fun a => { a with fired := false })
      = alarms.map (fun a => { a with fired := false }) := by
  rw [List.map_map]
  congr 1
  funext a
  simp only [Function.comp, Alarm.afterPass]
  split <;> rfl

/-- The scheduling pass of a counting timer (R187): its callbacks in order, the timer's record replaced, the deadline
armed. -/
theorem tickPass_spec (t : Nat) (s : State) (f : Nat) (hr : (s.vctAt t).rate = some f) (ht : t < s.vct.length)
    (hl : (s.vctAt t).alarms.length = alarmCount s.cfg t) :
    tickPass t s = (fireAll t (passCallbacks (s.vctAt t) s.now) s).setVct t
      { (s.vctAt t).afterPass s.now with deadline := ((s.vctAt t).afterPass s.now).armAt s.now } := by
  simp only [tickPass, hr]
  rw [alarmPass_spec t _ s ht hl]
  generalize hT : s.vctAt t = T at *
  by_cases ho : T.overflows (T.count s.now) = true
  · simp only [ho, if_true, overflowPass, passCallbacks, Vct.afterPass]
    rw [vctAt_setVct_self _ _ (by simpa using ht), setVct_setVct, setVct_now, fireAll_now, fire_setVct,
      vctAt_setVct_self _ _ (by simpa using ht), setVct_setVct]
    rw [alarmPass_spec _ _ _ (by simpa using ht)
      (by rw [vctAt_setVct_self _ _ (by simpa using ht)]; simpa [Vct.clearFired] using hl)]
    rw [vctAt_setVct_self _ _ (by simpa using ht), fireAll_setVct, setVct_setVct, schedule,
      vctAt_setVct_self _ _ (by simpa using ht), setVct_setVct, fireAll_append, fireAll_cons]
    simp only [Vct.clearFired, clearFired_map_afterPass, setVct_now, fireAll_now, fire_now]
  · simp only [ho, passCallbacks, Vct.afterPass, schedule]
    rw [if_neg (by simp), if_neg (by simp), if_neg (by simp), vctAt_setVct_self _ _ (by simpa using ht), setVct_setVct,
      List.append_nil, setVct_now, fireAll_now]

/-- The scheduling pass of a timer that does not count (R187): it is disarmed. -/
theorem tickPass_none (t : Nat) (s : State) (hr : (s.vctAt t).rate = none) :
    tickPass t s = s.setVct t { s.vctAt t with deadline := none } := by simp [tickPass, hr]

end Sys2Proof.Machine
end

