-- ==== Sys2Proof/Laws/Step.lean ====
section
/-! SUPPORT. What a step and the ends of a command can do (R11, R61, R219, R230). -/

namespace Sys2Proof.Machine

/-! ### Command words of the opcode table -/

/-- Two fields side by side, as a number. -/
theorem toNat_append_fields {m n : Nat} (x : BitVec m) (y : BitVec n) :
    (x ++ y).toNat = x.toNat * 2 ^ n + y.toNat := by
  rw [BitVec.toNat_append, ← Nat.shiftLeft_add_eq_or_of_lt y.isLt, Nat.shiftLeft_eq]

/-- The word of a row with a `SUB` and an `IDX` is the word of the four fields (R81, R84). -/
theorem cmdOf_eq_cmdWord {pattern k op sub idx : Nat} (hp : pattern = k * 2 ^ 28 + op * 2 ^ 24)
    (ho : op < 16) (hs : sub < 256) (hi : idx < 65536) : cmdOf pattern sub idx = cmdWord k op sub idx := by
  subst hp
  apply BitVec.eq_of_toNat_eq
  have h : (cmdWord k op sub idx).toNat = (k % 2 ^ 4 * 2 ^ 4 + op % 2 ^ 4) * 2 ^ (8 + 16)
      + (sub % 2 ^ 8 * 2 ^ 16 + idx % 2 ^ 16) := by
    unfold cmdWord
    rw [toNat_append_fields, toNat_append_fields, toNat_append_fields]
    simp only [BitVec.toNat_ofNat]
  rw [h, cmdOf, BitVec.toNat_ofNat]
  omega

/-! ### The ends of a command -/

/-- A faulting command leaves the state as `faulted` says (R230). -/
theorem raise_eq_faulted (r : FaultRecord) (s : State) : raise r s = s.faulted r := by
  cases h : s.fault <;> simp [raise, State.faulted, State.setFault, State.setResp, h]

theorem done_eq (v : DoubleWord) (s : State) : done v s = .next (s.setResp (some v)) := rfl

/-- An index inside its space passes the check (R61). -/
theorem withUnit_of_lt {space : IndexSpace} {i : Nat} {s : State} {body : Result} (h : i < unitCount s.cfg space) :
    withUnit space i s body = body := if_neg (Nat.not_le.mpr h)

/-- An index outside its space faults (R61). -/
theorem withUnit_of_le {space : IndexSpace} {i : Nat} {s : State} {body : Result} (h : unitCount s.cfg space ≤ i) :
    withUnit space i s body = .next (s.faulted (.prgId space i)) := by
  rw [withUnit, if_pos h, raise_eq_faulted]

/-! ### The three kinds of step -/

/-- `ADVANCE(d)` is enabled exactly if no armed deadline lies before its end (R216). -/
theorem advanceEnabled_iff {d : Nat} {s : State} : advanceEnabled d s = true
    ↔ 0 < d ∧ ∀ T ∈ s.vct, ∀ x, T.deadline = some x → s.now + d ≤ x := by
  simp only [advanceEnabled, Bool.and_eq_true, decide_eq_true_eq, List.all_eq_true]
  refine and_congr_right fun _ => forall_congr' fun T => imp_congr_right fun _ => ?_
  unfold Vct.admits
  cases T.deadline <;> simp

theorem anyDue_eq_false_iff {s : State} : anyDue s = false ↔ ∀ T ∈ s.vct, T.deadline ≠ some s.now := by
  simp [anyDue, Vct.due]

theorem isDue_iff {t : Nat} {s : State} :
    isDue t s = true ↔ t < s.vct.length ∧ (s.vctAt t).deadline = some s.now := by
  simp [isDue, Vct.due]

/-- Everything a step can do (R219): the fault record is clear, the configuration well-formed, and the next input is a
command, accepted when nothing is due, that decodes and executes or faults; a clock step; or a due scheduling pass. -/
theorem step_cases {s s' : State} (h : step s = .next s') :
    s.fault = none ∧ configOk s.cfg = true ∧ ∃ m rest, s.inputs = m :: rest
      ∧ ((∃ cmd data, m = .command cmd data ∧ anyDue s = false
            ∧ ((∃ i, decode cmd data = .ok i ∧ exec i (s.setInputs rest) = .next s')
              ∨ ∃ e, decode cmd data = .error e ∧ s' = (s.setInputs rest).faulted (.illegalCmd cmd)))
        ∨ (∃ d, m = .advance d ∧ advanceEnabled d s = true ∧ s' = (s.setInputs rest).setNow (s.now + d))
        ∨ ∃ t, m = .due t ∧ isDue t s = true ∧ s' = tickPass t (s.setInputs rest)) := by
  unfold step at h
  split at h
  · cases h
  · rename_i hf
    split at h
    · rename_i hc
      split at h
      · cases h
      · rename_i m rest hi
        refine ⟨hf, hc, m, rest, hi, ?_⟩
        have hd : anyDue (s.setInputs rest) = anyDue s := rfl
        have ha : ∀ d, advanceEnabled d (s.setInputs rest) = advanceEnabled d s := fun _ => rfl
        have hu : ∀ t, isDue t (s.setInputs rest) = isDue t s := fun _ => rfl
        cases m with
        | command cmd data =>
          simp only [inputStep, commandStep, hd] at h
          split at h
          · cases h
          · rename_i hn
            refine .inl ⟨cmd, data, rfl, by simpa using hn, ?_⟩
            simp only [runCommand, raise_eq_faulted] at h
            split at h
            · rename_i i hi; exact .inl ⟨i, hi, h⟩
            · rename_i e he; exact .inr ⟨e, he, by cases h; rfl⟩
        | advance d =>
          simp only [inputStep, advanceStep, ha] at h
          split at h
          · rename_i hn; exact .inr (.inl ⟨d, rfl, hn, by cases h; rfl⟩)
          · cases h
        | due t =>
          simp only [inputStep, dueStep, hu] at h
          split at h
          · rename_i hn; exact .inr (.inr ⟨t, rfl, hn, by cases h; rfl⟩)
          · cases h
    · cases h

end Sys2Proof.Machine
end

