-- ==== Sys2Proof/Laws/Wiring.lean ====
section
/-! SUPPORT. Construction reports a bad record exactly for an ill-formed configuration (R231, R232). -/

namespace Sys2Proof.Machine

/-- No entry is bad exactly when the list has its length and every entry is good. -/
theorem badEntries_eq_nil {α : Type} (n : Nat) (xs : List α) (ok : α → Bool) :
    badEntries n xs ok = [] ↔ xs.length = n ∧ xs.all ok = true := by
  simp only [badEntries, List.filter_eq_nil_iff, List.mem_range, badEntry, Bool.not_eq_true]
  constructor
  · intro h
    have hl : xs.length = n := by
      rcases Nat.lt_trichotomy xs.length n with hlt | he | hgt
      · simpa [hlt] using h xs.length (by omega)
      · exact he
      · have := h n (by omega); simp [List.getElem?_eq_getElem hgt] at this
    refine ⟨hl, List.all_eq_true.2 fun x hx => ?_⟩
    obtain ⟨i, hi, rfl⟩ := List.mem_iff_getElem.1 hx
    have := h i (by omega)
    simp only [List.getElem?_eq_getElem hi, Bool.or_eq_false_iff, Bool.not_eq_false'] at this
    exact this.2
  · rintro ⟨rfl, h⟩ i hi
    have hi' : i < xs.length := by omega
    simp only [List.getElem?_eq_getElem hi', List.all_eq_true] at h ⊢
    simp [h _ (List.getElem_mem hi'), hi']

/-- No unit has a bad record exactly when the records are one a unit and nothing inside them is bad. -/
theorem badInUnits_eq_nil {α : Type} (n : Nat) (xs : List α) (whole : Nat → ConfigRecord)
    (inside : Nat → α → List ConfigRecord) (ok : α → Bool) (hok : ∀ i x, inside i x = [] ↔ ok x = true) :
    badInUnits n xs whole inside = [] ↔ xs.length = n ∧ xs.all ok = true := by
  rw [← badEntries_eq_nil]
  simp only [badInUnits, badEntries, List.flatMap_eq_nil_iff, List.filter_eq_nil_iff, List.mem_range, badEntry]
  refine forall₂_congr fun i hi => ?_
  cases hx : xs[i]? with
  | none => have := List.getElem?_eq_none_iff.1 hx; simp; omega
  | some x => by_cases hn : n ≤ i <;> simp [hn, hok]

theorem badInBank_eq_nil (nLINES b : Nat) (bc : BankConfig) :
    badInBank nLINES b bc = [] ↔ bankOk nLINES bc = true := by
  simp only [badInBank, List.append_eq_nil_iff, List.map_eq_nil_iff, badEntries_eq_nil, bankOk, routerOk,
    Bool.and_eq_true, decide_eq_true_eq, List.filter_eq_nil_iff, List.all_eq_true]
  split <;> simp_all [and_assoc]

theorem badInTimer_eq_nil (cfg : Config) (t : Nat) (tc : TimerConfig) :
    badInTimer cfg t tc = [] ↔ timerOk cfg tc = true := by
  simp only [badInTimer, List.append_eq_nil_iff, List.map_eq_nil_iff, badEntries_eq_nil, timerOk, Bool.and_eq_true,
    decide_eq_true_eq]
  split <;> split <;> simp_all

theorem badCounts_eq_nil (cfg : Config) : badCounts cfg = [] ↔ countsOk cfg = true := by
  have h : badCounts cfg = [] ↔ ∀ space ∈ [IndexSpace.clc, .srl, .srb, .srbx, .vct, .arb], countOk cfg space = true := by
    simp only [badCounts, List.map_eq_nil_iff, List.filter_eq_nil_iff, Bool.not_eq_true', Bool.not_eq_false]
  rw [h]
  simp only [List.forall_mem_cons, countOk, countsOk, Bool.and_eq_true, Bool.or_eq_true, decide_eq_true_eq]
  simp [unitCount]
  omega

theorem badDrivers_eq_nil (cfg : Config) : badDrivers cfg = [] ↔ oneDriverPerLine cfg = true := by
  simp only [badDrivers, oneDriverPerLine, List.map_eq_nil_iff, List.filter_eq_nil_iff, decide_eq_true_eq,
    List.nodup_iff_count_le_one, Nat.not_lt]
  refine ⟨fun h id => ?_, fun h id _ => h id⟩
  by_cases hm : id ∈ (allSinks cfg).filterMap sinkLine
  · exact h id hm
  · simp [List.count_eq_zero_of_not_mem hm]

/-- A configuration has no bad record exactly when it is well-formed (R231, R232). -/
theorem badRecords_eq_nil (cfg : Config) : badRecords cfg = [] ↔ configOk cfg = true := by
  simp only [badRecords, List.append_eq_nil_iff, List.map_eq_nil_iff, badCounts_eq_nil, badDrivers_eq_nil,
    badEntries_eq_nil, badInUnits_eq_nil _ _ _ _ _ (badInBank_eq_nil cfg.nLINES),
    badInUnits_eq_nil _ _ _ _ _ (badInTimer_eq_nil cfg), configOk, recordsPresent, Bool.and_eq_true, decide_eq_true_eq]
  tauto

/-- Construction (R231): the reset state of a well-formed configuration. -/
theorem construct_of_ok {cfg : Config} (h : configOk cfg = true) : construct cfg = .ok (State.resetOf cfg) := by
  simp [construct, (badRecords_eq_nil cfg).2 h]

/-- Construction (R231, R232): the first bad record of an ill-formed one. -/
theorem construct_of_bad {cfg : Config} (h : configOk cfg = false) :
    ∃ bad ∈ badRecords cfg, construct cfg = .error (.cfg bad) := by
  cases hb : badRecords cfg with
  | nil => simp [(badRecords_eq_nil cfg).1 hb] at h
  | cons bad bads => exact ⟨bad, by simp, by simp [construct, hb]⟩

end Sys2Proof.Machine
end

