-- ==== Sys2Proof/Tests/Slice0.lean ====
section
/-! SUPPORT. Tests: the bounds of `WellFormed`, hand-assembled command words, single steps with the results of
`spec/95_test_vectors.md` (the section stands in each comment), and for every statement with hypotheses a witness that
meets them. -/

namespace Sys2Proof.Tests

open Sys2Proof.Machine

/-! ### WellFormed: each check refuses the first value beyond its field, and admits the last within -/

theorem test_wf_clc : ([.clcInit 65536, .clcSet 65536 0, .clcGet 65536, .clcIsen 65536, .clcGetpre 65536]
    : List Instr).all (fun i => !i.wf) = true := by decide
theorem test_wf_srl : ([.srlSet 65536 0, .srlGet 65536, .srlAssert 65536, .srlClear 65536]
    : List Instr).all (fun i => !i.wf) = true := by decide
theorem test_wf_srb : ([.srbSetmask 65536 0, .srbSetraw 65536 0, .srbClearraw 65536 0, .srbGetmask 65536,
    .srbGetraw 65536, .srbGetmis 65536] : List Instr).all (fun i => !i.wf) = true := by decide
theorem test_wf_srbx : ([.srbxSetmask 65536 0, .srbxSetraw 65536 0, .srbxClearraw 65536 0, .srbxGetmask 65536,
    .srbxGetraw 65536, .srbxGetmis 65536] : List Instr).all (fun i => !i.wf) = true := by decide
theorem test_wf_arb : (Instr.arbSetlevel 65536 .fast 0 0 true).wf = false
    ∧ (Instr.arbTake .fast).wf = true ∧ (Instr.arbAck .normal).wf = true ∧ (Instr.arbSetmask .fast true 255).wf = true := by
  decide
theorem test_wf_vct_index : ([.vctStart 65536, .vctStop 65536, .vctReset 65536, .vctSetfreq 65536 0, .vctSetovf 65536 1,
    .vctSetalarm 65536 0 0, .vctTick 65536, .vctGetcnt 65536, .vctNext 65536] : List Instr).all (fun i => !i.wf) = true := by
  decide
theorem test_wf_vct_alarm : (Instr.vctSetalarm 0 256 0).wf = false ∧ (Instr.vctSetalarm 0 255 0).wf = true := by decide
theorem test_wf_vct_data : (Instr.vctSetfreq 0 (2 ^ 64)).wf = false ∧ (Instr.vctSetovf 0 (2 ^ 64)).wf = false
    ∧ (Instr.vctSetalarm 0 0 (2 ^ 64)).wf = false ∧ (Instr.vctSetfreq 65535 (2 ^ 64 - 1)).wf = true := by decide

/-! ### Decoding: words assembled by hand from R81, R82, R84 (V0 to V5) -/

theorem test_decode_clc :
    decode 0x0000FFFF#32 0#64 = .ok (.clcInit 65535)
      ∧ decode 0x01000003#32 0x1ABCD0201#64 = .ok (.clcSet 3 0xABCD0201#32)
      ∧ decode 0x02000000#32 0#64 = .ok (.clcGet 0) ∧ decode 0x03000001#32 7#64 = .ok (.clcIsen 1)
      ∧ decode 0x04000000#32 0#64 = .ok (.clcGetpre 0) := ⟨rfl, rfl, rfl, rfl, rfl⟩
theorem test_decode_srl :
    decode 0x11000002#32 0xFFFFFFFFFFFF9005#64 = .ok (.srlSet 2 0x9005#16)
      ∧ decode 0x12000007#32 0#64 = .ok (.srlGet 7) ∧ decode 0x13000000#32 0#64 = .ok (.srlAssert 0)
      ∧ decode 0x14000001#32 0#64 = .ok (.srlClear 1) := ⟨rfl, rfl, rfl, rfl⟩
theorem test_decode_srb :
    decode 0x21000000#32 0xFFFFFFFF#64 = .ok (.srbSetmask 0 0xFFFFFFFF#32)
      ∧ decode 0x22000001#32 0x3#64 = .ok (.srbSetraw 1 0x3#32)
      ∧ decode 0x23000000#32 0x700000005#64 = .ok (.srbClearraw 0 0x5#32)
      ∧ decode 0x24000000#32 0#64 = .ok (.srbGetmask 0) ∧ decode 0x25000001#32 0#64 = .ok (.srbGetraw 1)
      ∧ decode 0x26000000#32 0#64 = .ok (.srbGetmis 0) := ⟨rfl, rfl, rfl, rfl, rfl, rfl⟩
theorem test_decode_srbx :
    decode 0x31000000#32 0x3#64 = .ok (.srbxSetmask 0 0x3#32)
      ∧ decode 0x32000000#32 0xFC#64 = .ok (.srbxSetraw 0 0xFC#32)
      ∧ decode 0x33000002#32 0x1#64 = .ok (.srbxClearraw 2 0x1#32)
      ∧ decode 0x34000000#32 0#64 = .ok (.srbxGetmask 0) ∧ decode 0x35000000#32 0#64 = .ok (.srbxGetraw 0)
      ∧ decode 0x36000001#32 0#64 = .ok (.srbxGetmis 1) := ⟨rfl, rfl, rfl, rfl, rfl, rfl⟩
theorem test_decode_arb :
    decode 0x41000001#32 0xFFFFFFFFFFFF0003#64 = .ok (.arbSetlevel 1 .normal 3#8 0#8 true)
      ∧ decode 0x41010003#32 0x00305#64 = .ok (.arbSetlevel 3 .fast 5#8 3#8 false)
      ∧ decode 0x42010000#32 0#64 = .ok (.arbTake .fast) ∧ decode 0x43010000#32 0#64 = .ok (.arbAck .fast)
      ∧ decode 0x44000000#32 0x105#64 = .ok (.arbSetmask .normal true 5#8)
      ∧ decode 0x44000000#32 0xFF#64 = .ok (.arbSetmask .normal false 255#8) := ⟨rfl, rfl, rfl, rfl, rfl, rfl⟩
theorem test_decode_vct :
    decode 0x51000005#32 0#64 = .ok (.vctStart 5) ∧ decode 0x52000000#32 0#64 = .ok (.vctStop 0)
      ∧ decode 0x53000001#32 0#64 = .ok (.vctReset 1) ∧ decode 0x54000000#32 1000#64 = .ok (.vctSetfreq 0 1000)
      ∧ decode 0x55000000#32 0xFFFFFFFFFFFFFFFF#64 = .ok (.vctSetovf 0 0xFFFFFFFFFFFFFFFF)
      ∧ decode 0x56030002#32 500#64 = .ok (.vctSetalarm 2 3 500) ∧ decode 0x57000000#32 0#64 = .ok (.vctTick 0)
      ∧ decode 0x58000001#32 0#64 = .ok (.vctGetcnt 1) ∧ decode 0x59000000#32 0#64 = .ok (.vctNext 0) :=
  ⟨rfl, rfl, rfl, rfl, rfl, rfl, rfl, rfl, rfl⟩

/-- The illegal words of V0 and V7, by the reason the decoder names. -/
theorem test_decode_illegal :
    decode 0x00010000#32 0#64 = .error .reservedSub ∧ decode 0x05000000#32 0#64 = .error .reservedOp
      ∧ decode 0x10000000#32 0#64 = .error .reservedOp ∧ decode 0x27000000#32 0#64 = .error .reservedOp
      ∧ decode 0x37000000#32 0#64 = .error .reservedOp ∧ decode 0x40000000#32 0#64 = .error .reservedOp
      ∧ decode 0x41020000#32 0#64 = .error .reservedSub ∧ decode 0x42000001#32 0#64 = .error .reservedIdx
      ∧ decode 0x44020000#32 0#64 = .error .reservedSub ∧ decode 0x45000000#32 0#64 = .error .reservedOp
      ∧ decode 0x51010000#32 0#64 = .error .reservedSub ∧ decode 0x5A000000#32 0#64 = .error .reservedOp
      ∧ decode 0x60000000#32 0#64 = .error .reservedKind ∧ decode 0xFFFFFFFF#32 0#64 = .error .reservedKind
      ∧ decode 0x4102FFFF#32 0#64 = .error .reservedSub :=
  ⟨rfl, rfl, rfl, rfl, rfl, rfl, rfl, rfl, rfl, rfl, rfl, rfl, rfl, rfl, rfl⟩

/-- A table word as bits and as bytes (R62); `DATA` stands above `CMD`. -/
theorem test_tableWord : decodeTableWord 32 0x41000001 = some (.arbSetlevel 1 .normal 0#8 0#8 false)
    ∧ decodeTableWord 96 0x1000341000001 = some (.arbSetlevel 1 .normal 3#8 0#8 true)
    ∧ decodeTableWord 32 0x60000000 = none := by decide
theorem test_withFetchWord : step (State.reset.withFetchWord 32 0x02000000)
    = .next { State.reset with resp := some 0x103#64 } := by rfl

/-! ### Configurations and states -/

/-- The state after one instruction. -/
def after (i : Instr) (s : State) : State :=
  match exec i s with
  | .next t => t
  | _ => s

/-- The sample configuration with every sink an external pin (V2.1, V3.0). -/
def pinConfig : Config := { sampleConfig with
  sinkSRL := [.ext 0, .ext 1]
  banks := [{ evMask := 0xF#32, nOut := 2, router := [0, 1, 0, 1], sinks := [.ext 10, .ext 11] }] }

/-- One RequestLine of the pin configuration in the state given. -/
def lineState (u : Srl) : State := { State.resetOf pinConfig with srl := [u, Srl.reset] }

/-- The bank of the pin configuration in the state given. -/
def bankState (u : Srb) : State := { State.resetOf pinConfig with srb := [u] }

/-- The bank and the extension of the pin configuration in the states given. -/
def extState (u : Srb) (x : Srbx) : State := { State.resetOf pinConfig with srb := [u], srbx := [x] }

/-- The sample machine with the first four lines as given, class normal as given. -/
def arbState (ls : List ArbLine) (k : ArbClass) : State :=
  { State.reset with lines := ls ++ List.replicate (8 - ls.length) ArbLine.reset, normal := k }

/-- An asserted line of class normal. -/
def raised (p w : Byte) : ArbLine := ⟨false, p, w, true⟩

/-- The base timer of V5: 1000 Hz, modulus 1000, alarm 0 at 500, started at 0. -/
def baseTimer : Vct := ⟨some 1000, 0, 0, some 1000, [⟨some 500, false⟩], true, some 500000000⟩

/-- The sample machine with timer 0 as given, at the time given. -/
def timerState (T : Vct) (now : Nat) : State := { State.reset with vct := [T, Vct.reset 1], now := now }

/-! ### ClockControl (V1, R101) -/

theorem test_clcInit : (after (.clcInit 0) { State.reset with clc := [⟨0x0000FF00#32⟩] }).clc = [⟨0x103#32⟩] := by decide
theorem test_clcSet_request : (after (.clcSet 0 0x201#32) State.reset).clc = [⟨0x203#32⟩] := by decide
theorem test_clcSet_no_request : (after (.clcSet 0 0xFFFFFFFE#32) State.reset).clc = [⟨0xFFFFFFFC#32⟩] := by decide
theorem test_clcGet : (after (.clcGet 0) { State.reset with clc := [⟨0xABCD0203#32⟩] }).resp = some 0xABCD0203#64 := by
  decide
theorem test_clcIsen : (after (.clcIsen 0) State.reset).resp = some 0#64
    ∧ (after (.clcIsen 0) { State.reset with clc := [⟨0x200#32⟩] }).resp = some 1#64 := by decide
theorem test_clcGetpre : (after (.clcGetpre 0) { State.reset with clc := [⟨0xABCD0203#32⟩] }).resp = some 2#64 := by decide

/-! ### RequestLine (V2.1; a record is `(pending, enabled, priority, deliveredState)`) -/

theorem test_srlSet_first : (after (.srlSet 0 0x9005#16) (State.resetOf pinConfig)).srlAt 0 = ⟨true, true, 5#8, true⟩
    ∧ (after (.srlSet 0 0x9005#16) (State.resetOf pinConfig)).trace = [.deliver (.ext 0) 6] := by decide
theorem test_srlSet_both_fold_bits :
    (after (.srlSet 0 0xF007#16) (lineState ⟨false, true, 7#8, false⟩)).srlAt 0 = ⟨true, true, 7#8, true⟩
      ∧ (after (.srlSet 0 0xC007#16) (lineState ⟨true, true, 7#8, true⟩)).srlAt 0 = ⟨false, false, 7#8, false⟩
      ∧ (after (.srlSet 0 0x5007#16) (lineState ⟨true, true, 7#8, true⟩)).trace = [.deliver (.ext 0) 0] := by decide
theorem test_srlGet : (after (.srlGet 0) (lineState ⟨true, true, 5#8, true⟩)).resp = some 0x3005#64 := by decide
theorem test_srlAssert : (after (.srlAssert 0) (lineState ⟨false, true, 255#8, false⟩)).trace = [.deliver (.ext 0) 256]
    ∧ (after (.srlAssert 0) (lineState ⟨true, true, 255#8, true⟩)).trace = [] := by decide
theorem test_srlAssert_masked :
    after (.srlAssert 0) (lineState ⟨false, false, 3#8, false⟩)
      = { lineState ⟨true, false, 3#8, false⟩ with resp := some 0#64 } := by decide
theorem test_srlClear : (after (.srlClear 0) (lineState ⟨true, true, 255#8, true⟩)).srlAt 0 = ⟨false, true, 255#8, false⟩
    ∧ (after (.srlClear 0) (lineState ⟨true, true, 255#8, true⟩)).trace = [.deliver (.ext 0) 0] := by decide

/-! ### RequestBank and extension (V3.0, V3.1 to V3.3) -/

theorem test_srbSetmask :
    (after (.srbSetmask 0 0x1#32) (bankState ⟨0xF#32, 0xA#32, [false, true]⟩)).srb = [⟨0x1#32, 0xA#32, [false, false]⟩]
      ∧ (after (.srbSetmask 0 0xA#32) (bankState ⟨0x1#32, 0xA#32, [false, false]⟩)).trace = [.deliver (.ext 11) 1] := by
  decide
theorem test_srbSetraw :
    (after (.srbSetraw 0 0x3#32) (bankState ⟨0xF#32, 0x0#32, [false, false]⟩)).trace
        = [.deliver (.ext 10) 1, .deliver (.ext 11) 1]
      ∧ (after (.srbSetraw 0 0xFC#32) (bankState ⟨0xF#32, 0x3#32, [true, true]⟩)).srb
        = [⟨0xF#32, 0xF#32, [true, true]⟩] := by decide
theorem test_srbClearraw :
    (after (.srbClearraw 0 0x5#32) (bankState ⟨0xF#32, 0xF#32, [true, true]⟩)).srb = [⟨0xF#32, 0xA#32, [false, true]⟩]
      ∧ (after (.srbClearraw 0 0x5#32) (bankState ⟨0xF#32, 0xF#32, [true, true]⟩)).trace = [.deliver (.ext 10) 0] := by
  decide
theorem test_srb_reads : (after (.srbGetmask 0) (bankState ⟨0x1#32, 0xB#32, [true, false]⟩)).resp = some 1#64
    ∧ (after (.srbGetraw 0) (bankState ⟨0x1#32, 0xB#32, [true, false]⟩)).resp = some 0xB#64
    ∧ (after (.srbGetmis 0) (bankState ⟨0x6#32, 0xB#32, [false, true]⟩)).resp = some 2#64 := by decide
theorem test_srbxSetmask :
    (after (.srbxSetmask 0 0x3#32) (extState ⟨0x8#32, 0#32, [false, false]⟩ ⟨0x1#32, 0#32⟩)).srb
        = [⟨0x8#32, 0x8#32, [false, true]⟩]
      ∧ (after (.srbxSetmask 0 0#32) (extState ⟨0x8#32, 0x8#32, [false, true]⟩ ⟨0x4#32, 0x4#32⟩)).trace
        = [.deliver (.ext 11) 0] := by decide
theorem test_srbxSetraw :
    after (.srbxSetraw 0 0xFC#32) (extState ⟨0x8#32, 0x8#32, [false, true]⟩ ⟨0x3#32, 0x3#32⟩)
      = { extState ⟨0x8#32, 0x8#32, [false, true]⟩ ⟨0x7#32, 0x3#32⟩ with resp := some 0#64 } := by decide
theorem test_srbxClearraw :
    (after (.srbxClearraw 0 0x2#32) (extState ⟨0x8#32, 0x8#32, [false, true]⟩ ⟨0x6#32, 0x3#32⟩)).srbx = [⟨0x4#32, 0x3#32⟩]
      ∧ (after (.srbxClearraw 0 0x2#32) (extState ⟨0x8#32, 0x8#32, [false, true]⟩ ⟨0x6#32, 0x3#32⟩)).trace
        = [.deliver (.ext 11) 0] := by decide
theorem test_srbx_reads : (after (.srbxGetmask 0) (extState (.reset 2) ⟨0x6#32, 0x3#32⟩)).resp = some 3#64
    ∧ (after (.srbxGetraw 0) (extState (.reset 2) ⟨0x6#32, 0x3#32⟩)).resp = some 6#64
    ∧ (after (.srbxGetmis 0) (extState (.reset 2) ⟨0x6#32, 0x3#32⟩)).resp = some 2#64 := by decide

/-! ### Arbiter (V4.1 to V4.7) -/

/-- V4.1, row 3: on equal priority and weight the lower id wins, without an edge. -/
theorem test_arbSetlevel_tie :
    (after (.arbSetlevel 1 .normal 5#8 3#8 true)
        (arbState [.reset, .reset, raised 5 1, .reset, raised 5 3] ⟨none, some 4, none⟩)).normal = ⟨none, some 1, none⟩
      ∧ (after (.arbSetlevel 1 .normal 5#8 3#8 true)
        (arbState [.reset, .reset, raised 5 1, .reset, raised 5 3] ⟨none, some 4, none⟩)).trace = [] := by decide
/-- V4.7, row 2: a re-classed line leaves one class and joins the other, normal's edge first. -/
theorem test_arbSetlevel_reclass :
    (after (.arbSetlevel 0 .fast 5#8 0#8 true) (arbState [raised 5 0] ⟨none, some 0, none⟩)).trace
      = [.outEdge .normal false, .outEdge .fast true] := by decide
theorem test_arbTake : (after (.arbTake .normal) (arbState [raised 1 0] ⟨none, some 0, none⟩)).normal = ⟨some 0, none, none⟩
    ∧ (after (.arbTake .normal) (arbState [raised 1 0] ⟨none, some 0, none⟩)).resp = some 0x10000#64
    ∧ (after (.arbTake .normal) State.reset).resp = some 0#64 := by decide
/-- E2, row 5: the acknowledged line is consumed and the next best selected. -/
theorem test_arbAck :
    (after (.arbAck .normal) (arbState [raised 1 0, raised 3 0, .reset, raised 3 0] ⟨some 1, none, none⟩)).normal
        = ⟨none, some 3, none⟩
      ∧ ((after (.arbAck .normal)
          (arbState [raised 1 0, raised 3 0, .reset, raised 3 0] ⟨some 1, none, none⟩)).lineAt 1).asserted = false
      ∧ (after (.arbAck .normal) (arbState [raised 1 0] ⟨none, some 0, none⟩)).fault = some (.prgAck .normal) := by decide
/-- V4.3, rows 1 and 9: the filter idles a Pending class and does not cancel a lock. -/
theorem test_arbSetmask :
    (after (.arbSetmask .normal true 3#8) (arbState [raised 1 0, .reset, .reset, raised 3 0] ⟨none, some 3, none⟩)).normal
        = ⟨none, none, some 3#8⟩
      ∧ (after (.arbSetmask .normal true 200#8)
        (arbState [raised 1 0, .reset, .reset, raised 3 0] ⟨some 3, none, none⟩)).normal = ⟨some 3, none, some 200#8⟩ := by
  decide

/-! ### Timer (V5) -/

/-- V5.1, row 3. -/
theorem test_vctStart :
    (after (.vctStart 0) (timerState { baseTimer with counterBase := 250, baseTimestamp := 250500000, running := false,
                                                      deadline := none } 900000000)).vctAt 0
      = { baseTimer with counterBase := 250, baseTimestamp := 900000000, deadline := some 1150000000 } := by decide
/-- V5.9, row 1. -/
theorem test_vctStart_unwritten : (after (.vctStart 0) State.reset).fault = some (.unwritten 0) := by decide
/-- V5.1, row 1. -/
theorem test_vctStop : (after (.vctStop 0) (timerState baseTimer 250500000)).vctAt 0
    = { baseTimer with counterBase := 250, baseTimestamp := 250500000, running := false, deadline := none } := by decide
/-- V5.2. -/
theorem test_vctReset :
    (after (.vctReset 0) (timerState { baseTimer with alarms := [⟨some 500, true⟩], deadline := some 1000000000 }
      700000000)).vctAt 0 = { baseTimer with baseTimestamp := 700000000, deadline := some 1200000000 } := by decide
/-- V5.3, row 1. -/
theorem test_vctSetfreq : (after (.vctSetfreq 0 2000) (timerState baseTimer 250000000)).vctAt 0
    = { baseTimer with frequencyHz := some 2000, counterBase := 250, baseTimestamp := 250000000,
                       deadline := some 375000000 } := by decide
/-- V5.4, rows 1 and 2: clamped only above the modulus. -/
theorem test_vctSetovf :
    (after (.vctSetovf 0 200) (timerState { baseTimer with alarms := [⟨some 500, true⟩] } 600000000)).vctAt 0
        = { baseTimer with alarms := [⟨some 500, true⟩], overflowModulus := some 200, counterBase := 200,
                           baseTimestamp := 600000000, deadline := some 600000000 }
      ∧ (after (.vctSetovf 0 600) (timerState { baseTimer with alarms := [⟨some 500, true⟩] } 600000000)).vctAt 0
        = { baseTimer with alarms := [⟨some 500, true⟩], overflowModulus := some 600, deadline := some 600000000 } := by
  decide
/-- V7, row 6: the index is checked before the modulus. -/
theorem test_vctSetovf_faults : (after (.vctSetovf 2 0) State.reset).fault = some (.prgId .vct 2)
    ∧ (after (.vctSetovf 1 0) State.reset).fault = some (.prgMod0 1) := by decide
/-- V5.5, rows 1 and 4. -/
theorem test_vctSetalarm :
    ((after (.vctSetalarm 0 0 800) (timerState { baseTimer with alarms := [⟨some 500, true⟩] } 600000000)).vctAt 0).alarms
        = [⟨some 800, false⟩]
      ∧ ((after (.vctSetalarm 0 0 800) (timerState baseTimer 800000000)).vctAt 0).alarms = [⟨some 800, true⟩] := by decide
/-- V7, row 5: the timer index is checked before the alarm id. -/
theorem test_vctSetalarm_faults : (after (.vctSetalarm 2 9 0) State.reset).fault = some (.prgId .vct 2)
    ∧ (after (.vctSetalarm 0 9 0) State.reset).fault = some (.prgId .vctAlarm 9) := by decide
/-- V5.6: first-pass alarms, overflow, re-run alarms, in this order. -/
theorem test_vctTick_wrap :
    (after (.vctTick 0) { State.resetOf { pinConfig with timers := [⟨4, .none, [.none, .none, .none, .none]⟩], nVCT := 1 }
        with vct := [⟨some 1000, 0, 0, some 1000, [⟨some 1000, false⟩, ⟨some 0, true⟩, ⟨some 1500, false⟩,
          ⟨some 1000, false⟩], true, some 1000000000⟩], now := 1000000000 }).trace
      = [.fire 0 (.alarm 0), .fire 0 (.alarm 3), .fire 0 .overflow, .fire 0 (.alarm 1)] := by decide
/-- V5.10, `@4`: the excess above the modulus is dropped. -/
theorem test_vctTick_excess :
    ((after (.vctTick 0) (timerState ⟨some 3000000000, 0, 0, some 10, [⟨some 4, true⟩], true, some 4⟩ 4)).vctAt 0)
      = ⟨some 3000000000, 0, 4, some 10, [⟨some 4, false⟩], true, some 6⟩ := by decide
theorem test_vctGetcnt : (after (.vctGetcnt 0) (timerState baseTimer 250500000)).resp = some 250#64
    ∧ (after (.vctGetcnt 0) State.reset).resp = some 0#64 := by decide
/-- V5.1, `VCT.NEXT`; R189: the saturated and the disarmed answers. -/
theorem test_vctNext : (after (.vctNext 0) (timerState { baseTimer with deadline := some 1150000000 } 900000000)).resp
      = some 250000000#64
    ∧ (after (.vctNext 0) State.reset).resp = some 0xFFFFFFFFFFFFFFFF#64
    ∧ (after (.vctNext 0) (timerState { baseTimer with deadline := some (2 ^ 64) } 1)).resp
      = some 0xFFFFFFFFFFFFFFFE#64 := by decide

/-! ### Wiring, time and text (V2.3, V6.3, P3, R88) -/

/-- V2.3, row 1: the delivered value carries the priority to the Arbiter line. -/
theorem test_deliver_priority :
    (after (.srlSet 0 0x9005#16) State.reset).lineAt 5 = ⟨false, 5#8, 0#8, true⟩
      ∧ (after (.srlSet 0 0x9005#16) State.reset).trace
        = [.deliver (.arb 5 .normal 0#8 .fromValue) 6, .outEdge .normal true] := by decide
/-- V6.3: a clock step may end on a deadline and not beyond it. -/
theorem test_advance_bound : advanceEnabled 500000000 (timerState baseTimer 0) = true
    ∧ advanceEnabled 500000001 (timerState baseTimer 0) = false ∧ advanceEnabled 0 (timerState baseTimer 0) = false := by
  decide
/-- P3: the alarm's route asserts RequestLine 0. -/
theorem test_route_srl :
    (dueStep 0 (timerState baseTimer 500000000) = .next (tickPass 0 (timerState baseTimer 500000000)))
      ∧ ((tickPass 0 (timerState baseTimer 500000000)).srlAt 0).pending = true := ⟨rfl, by decide⟩
/-- R88's example line. -/
theorem test_readLine : readLine "ARB.SETLEVEL id=1 class=normal prio=3 nest=0 level=1 -> 0 # raise"
    = some (.instr (.arbSetlevel 1 .normal 3#8 0#8 true) (some 0)) := by decide
/-- R89: omitted operands of `ARB.LOWER`; lines that are not read (log 27): an operand R89 does not give the line, one
out of its field. -/
theorem test_readLine_pseudo : readLine "ARB.LOWER id=3 prio=2" = some (.pseudo (.arbLower 3 none (some 2#8) none) none)
    ∧ readLine "ARB.LOWER id=3 level=0" = none ∧ readLine "ARB.LOWER id=3 prio=256" = none
    ∧ readLine "SRL.ENABLE r=0 prio=5 prio=5" = none := by decide
theorem test_construct_illFormed : construct { sampleConfig with sinkSRL := [.ext 0] } = .error (.cfg (.sinkSRL 1))
    ∧ construct { sampleConfig with nLINES := 6 } = .error (.cfg (.sinkSRL 1))
    ∧ construct { sampleConfig with exts := [⟨0x7#32, 0, 0x18#32⟩] } = .error (.cfg (.ext 0))
    ∧ construct { sampleConfig with timers := [⟨0, .none, []⟩, ⟨1, .none, [.srl 2]⟩] }
      = .error (.cfg (.route 1 (.alarm 0))) := by exact ⟨rfl, rfl, rfl, rfl⟩

/-! ### Witnesses: states and operands that meet the hypotheses of the statements -/

/-- A command offered next. -/
def offer (m : Input) (s : State) : State := { s with inputs := [m] }

/-- Timer 0 due: the base timer at its deadline. -/
def dueState : State := timerState baseTimer 500000000

/-- Both timers due. -/
def bothDueState : State := { State.reset with vct := [baseTimer, baseTimer], now := 500000000 }

/-- Class normal Locked on line 0, line 1 waiting. -/
def lockedState : State := arbState [raised 1 0, raised 7 0] ⟨some 0, none, none⟩

/-- Class normal Pending on line 1. -/
def pendingState : State := arbState [raised 1 0, raised 7 0] ⟨none, some 1, none⟩

theorem test_witness_DecodeInvertsEncode : (Instr.vctSetalarm 65535 255 (2 ^ 64 - 1)).wf = true
    ∧ (Instr.arbSetlevel 65535 .fast 255 255 true).wf = true := by decide
theorem test_witness_CommandWordIsOneRowOrIllegal :
    decode 0x44010000#32 0x1FF#64 = .ok (.arbSetmask .fast true 255#8)
      ∧ (∃ e, decode 0x44010001#32 0#64 = .error e)
      ∧ ∀ row ∈ opcodeRows, 0x44010001#32 &&& row.mask ≠ row.pattern := ⟨rfl, ⟨_, rfl⟩, by decide⟩
theorem test_witness_UnlistedDataBitsIgnored : ∃ row ∈ opcodeRows, 0x41000001#32 &&& row.mask = row.pattern
    ∧ 0x10003#64 &&& row.usedData = 0xFFFFFFFFFFFF0003#64 &&& row.usedData :=
  ⟨⟨"ARB.SETLEVEL", 0x41000000#32, 0xFFFE0000#32, 0x1FFFF#64⟩, by decide, by decide, by decide⟩
theorem test_witness_IllegalWordFaults :
    State.reset.fault = none ∧ configOk State.reset.cfg = true ∧ (∀ T ∈ State.reset.vct, T.deadline ≠ some State.reset.now)
      ∧ (offer (.command 0x60000000#32 0#64) State.reset).inputs = .command 0x60000000#32 0#64 :: []
      ∧ ∀ row ∈ opcodeRows, 0x60000000#32 &&& row.mask ≠ row.pattern := by decide
theorem test_witness_StepRunsDecodedCommand :
    (timerState baseTimer 499999999).fault = none ∧ configOk (timerState baseTimer 499999999).cfg = true
      ∧ (∀ T ∈ (timerState baseTimer 499999999).vct, T.deadline ≠ some (timerState baseTimer 499999999).now)
      ∧ decode 0x52000000#32 0#64 = .ok (.vctStop 0) := ⟨rfl, by decide, by decide, rfl⟩
theorem test_witness_StoppedMachineTakesNoStep :
    (after (.arbAck .fast) State.reset).fault = some (.prgAck .fast) := by decide
theorem test_witness_ClockStepMovesOnlyTime :
    (timerState baseTimer 0).fault = none ∧ configOk (timerState baseTimer 0).cfg = true
      ∧ (0 < 500000000 ∧ ∀ T ∈ (timerState baseTimer 0).vct, ∀ x ∈ T.deadline, 0 + 500000000 ≤ x)
      ∧ ¬ (∀ T ∈ (timerState baseTimer 0).vct, ∀ x ∈ T.deadline, 0 + 500000001 ≤ x) := by decide
theorem test_witness_DuePassRunsFirst :
    dueState.fault = none ∧ configOk dueState.cfg = true ∧ dueState.Shape
      ∧ (0 < dueState.cfg.nVCT ∧ (dueState.vctAt 0).deadline = some dueState.now)
      ∧ ¬ (1 < dueState.cfg.nVCT ∧ (dueState.vctAt 1).deadline = some dueState.now)
      ∧ ¬ (2 < dueState.cfg.nVCT ∧ (dueState.vctAt 2).deadline = some dueState.now) := by decide
/-- A clock step, a scheduler step and a command that are made (for the statements about a step that answers next). -/
theorem test_witness_steps_made :
    (∃ t, step (offer (.advance 500000000) (timerState baseTimer 0)) = .next t)
      ∧ (∃ t, step (offer (.due 0) dueState) = .next t)
      ∧ ∃ t, step (offer (.command 0x11000000#32 0x9005#64) State.reset) = .next t := ⟨⟨_, rfl⟩, ⟨_, rfl⟩, ⟨_, rfl⟩⟩
theorem test_witness_FaultingCommandChangesNothingElse :
    (exec (.vctStart 0) State.reset = .next (after (.vctStart 0) State.reset) ∧ State.reset.fault = none
        ∧ (after (.vctStart 0) State.reset).fault ≠ none)
      ∧ (after (.vctStart 0) State.reset).fault = some (.unwritten 0) := ⟨⟨rfl, rfl, by decide⟩, by decide⟩
theorem test_witness_OutOfRangeIndexFaults :
    (indexOf (.srlGet 2) = some (.srl, 2) ∧ spaceSize State.reset.cfg .srl ≤ 2)
      ∧ (indexOf (.arbSetlevel 65535 .fast 0 0 true) = some (.arb, 65535) ∧ spaceSize State.reset.cfg .arb ≤ 65535)
      ∧ (1 < State.reset.cfg.nVCT ∧ alarmCount State.reset.cfg 1 ≤ 1) := by decide
theorem test_witness_ConstructionGivesResetState :
    configOk sampleConfig = true ∧ configOk { sampleConfig with nLINES := 0 } = false ∧ configOk pinConfig = true := by
  decide
theorem test_witness_ResetIsQuiet : configOk sampleConfig = true := by decide
/-- The last index of each space and the first beyond it (for the statements of single operations). -/
theorem test_witness_indices : State.reset.Shape ∧ configOk State.reset.cfg = true
    ∧ (0 < State.reset.cfg.nCLC ∧ State.reset.cfg.nCLC ≤ 1) ∧ (1 < State.reset.cfg.nSRL ∧ State.reset.cfg.nSRL ≤ 2)
    ∧ (0 < State.reset.cfg.nSRB ∧ State.reset.cfg.nSRB ≤ 1) ∧ (0 < State.reset.cfg.nSRBX ∧ State.reset.cfg.nSRBX ≤ 1)
    ∧ (7 < State.reset.cfg.nLINES ∧ State.reset.cfg.nLINES ≤ 8) ∧ (1 < State.reset.cfg.nVCT ∧ State.reset.cfg.nVCT ≤ 2)
    ∧ (0 < alarmCount State.reset.cfg 0 ∧ alarmCount State.reset.cfg 0 ≤ 1) := by decide
theorem test_witness_ClockControlGatesNothing :
    (exec (.arbTake .fast) State.reset = .next (after (.arbTake .fast) State.reset) ∧ isClc (.arbTake .fast) = false)
      ∧ exec (.clcInit 0) State.reset = .next (after (.clcInit 0) State.reset) ∧ isClc (.clcInit 0) = true :=
  ⟨⟨rfl, rfl⟩, rfl, rfl⟩
theorem test_witness_SrlPriorityChangeNotForwarded :
    (lineState ⟨true, true, 5#8, true⟩).Shape ∧ 0 < (lineState ⟨true, true, 5#8, true⟩).cfg.nSRL
      ∧ ((lineState ⟨true, true, 5#8, true⟩).srlAt 0).pending = true
      ∧ ((lineState ⟨true, true, 5#8, true⟩).srlAt 0).enabled = true
      ∧ ((lineState ⟨true, true, 5#8, true⟩).srlAt 0).deliveredState = true := by decide
/-- V3, row 8: the parent bit cleared behind the extension. -/
theorem test_witness_ClearedParentBitStaysClear :
    (extState ⟨0x8#32, 0#32, [false, false]⟩ ⟨0x4#32, 0x4#32⟩).Shape
      ∧ 0 < (extState ⟨0x8#32, 0#32, [false, false]⟩ ⟨0x4#32, 0x4#32⟩).cfg.nSRBX
      ∧ ((extState ⟨0x8#32, 0#32, [false, false]⟩ ⟨0x4#32, 0x4#32⟩).srbxAt 0).rawStatus
        &&& ((extState ⟨0x8#32, 0#32, [false, false]⟩ ⟨0x4#32, 0x4#32⟩).srbxAt 0).mask ≠ 0#32 := by decide
/-- An extension whose aggregate rises, one whose aggregate falls, one whose aggregate stays (R135's three cases). -/
theorem test_witness_SrbxWritesForwardAggregate :
    (extState ⟨0x8#32, 0x8#32, [false, true]⟩ ⟨0x4#32, 0x4#32⟩).Shape
      ∧ configOk (extState ⟨0x8#32, 0x8#32, [false, true]⟩ ⟨0x4#32, 0x4#32⟩).cfg = true
      ∧ (0x4#32 &&& 0x4#32 ≠ 0#32 ∧ (0x4#32 &&& ~~~0x4#32) &&& 0x4#32 = 0#32)
      ∧ (0#32 &&& 0x4#32 = 0#32 ∧ (0#32 ||| 0x4#32) &&& 0x4#32 ≠ 0#32) := by decide
theorem test_witness_WinnerIsUnique : (∃ i, i < pendingState.cfg.nLINES ∧ competes pendingState .normal i = true)
    ∧ ∀ i < pendingState.cfg.nLINES, competes pendingState .fast i = false := ⟨⟨1, by decide⟩, by decide⟩
theorem test_witness_ArbTakeLocksPending :
    (lockedState.classAt .normal).lockedLineId = some 0
      ∧ ((pendingState.classAt .normal).lockedLineId = none ∧ (pendingState.classAt .normal).selectedLineId = some 1)
      ∧ (pendingState.classAt .fast).lockedLineId = none ∧ (pendingState.classAt .fast).selectedLineId = none := by decide
theorem test_witness_ArbAckReleasesAndSelects :
    ((lockedState.classAt .normal).lockedLineId = some 0 ∧ (lockedState.classAt .normal).selectedLineId = none)
      ∧ (pendingState.classAt .normal).lockedLineId = none ∧ (State.reset.classAt .fast).lockedLineId = none := by decide
theorem test_witness_ClassesDoNotInteract :
    (∃ t, exec (.arbTake .normal) pendingState = .next t) ∧ (∃ t, exec (.arbAck .normal) lockedState = .next t)
      ∧ (∃ t, exec (.arbSetmask .normal true 255#8) pendingState = .next t)
      ∧ (∃ t, exec (.arbSetlevel 2 .fast 9#8 0#8 true) pendingState = .next t)
      ∧ pendingState.lines.length = pendingState.cfg.nLINES ∧ Settled pendingState .normal
      ∧ (pendingState.lineAt 2).asserted = false :=
  ⟨⟨_, rfl⟩, ⟨_, rfl⟩, ⟨_, rfl⟩, ⟨_, rfl⟩, by decide, by decide, by decide⟩
theorem test_witness_LockedClassWaitsForAck :
    (∃ t, step (offer (.command 0x41000002#32 0x10009#64) lockedState) = .next t)
      ∧ (∃ t, step (offer (.command 0x43000000#32 0#64) lockedState) = .next t)
      ∧ (lockedState.classAt .normal).lockedLineId = some 0 := ⟨⟨_, rfl⟩, ⟨_, rfl⟩, by decide⟩
theorem test_witness_ReachIsFirstInstant :
    baseTimer.running = true ∧ baseTimer.frequencyHz = some 1000 ∧ 0 < 1000 := by decide
/-- A stopped written timer, a running one, an unwritten one. -/
theorem test_witness_VctStartArmsDeadline :
    (timerState { baseTimer with running := false, deadline := none } 7).Shape
      ∧ ((timerState { baseTimer with running := false, deadline := none } 7).vctAt 0).running = false
      ∧ ((timerState { baseTimer with running := false, deadline := none } 7).vctAt 0).Written
      ∧ ((timerState baseTimer 7).vctAt 0).running = true
      ∧ ((timerState baseTimer 7).vctAt 1).running = false ∧ ¬ ((timerState baseTimer 7).vctAt 1).Written := by decide
/-- A running written timer and a stopped one, for the other operations of a timer. -/
theorem test_witness_timers_ready :
    (timerState baseTimer 600000000).Shape ∧ ((timerState baseTimer 600000000).vctAt 0).Ready 600000000
      ∧ ((timerState baseTimer 600000000).vctAt 0).Counting
      ∧ ((timerState baseTimer 600000000).vctAt 1).Ready 600000000
      ∧ ¬ ((timerState baseTimer 600000000).vctAt 1).Counting := by decide
/-- The counter above, at and below a new modulus; an overflow and a mere alarm. -/
theorem test_witness_timer_boundaries :
    (200 < baseTimer.counterAt 600000000 ∧ ¬ 600 < baseTimer.counterAt 600000000)
      ∧ (∃ m ∈ baseTimer.overflowModulus, m ≤ baseTimer.counterAt 1000000000)
      ∧ ¬ (∃ m ∈ baseTimer.overflowModulus, m ≤ baseTimer.counterAt 999999999) := by decide
theorem test_witness_PassLeavesNothingDue :
    dueState.Shape ∧ 0 < dueState.cfg.nVCT ∧ (dueState.vctAt 0).Ready dueState.now
      ∧ (dueState.vctAt 0).overflowModulus ≠ some 0 ∧ ∃ u, exec (.vctTick 0) dueState = .next u :=
  ⟨by decide, by decide, by decide, by decide, ⟨_, rfl⟩⟩
/-- An offset of the deadline at and just below the saturation bound. -/
theorem test_witness_VctReadsAnswerCountAndDeadline :
    2 ^ 64 - 2 ≤ (2 ^ 64 - 2) - 0 ∧ ¬ 2 ^ 64 - 2 ≤ (2 ^ 64 - 3) - 0
      ∧ (dueState.vctAt 0).deadline = some 500000000 ∧ (dueState.vctAt 1).deadline = none := by decide
/-- A route of each kind. -/
theorem test_witness_RoutePerformsCommandEffect :
    routeOf sampleConfig 1 .overflow = .none ∧ (routeOf sampleConfig 0 (.alarm 0) = .srl 0 ∧ 0 < sampleConfig.nSRL)
      ∧ (routeOf sampleConfig 0 .overflow = .srb 0 0x1#32 ∧ 0 < sampleConfig.nSRB)
      ∧ routeOf { sampleConfig with timers := [⟨0, .srbx 0 0x2#32, []⟩] } 0 .overflow = .srbx 0 0x2#32
      ∧ 0 < sampleConfig.nSRBX := by decide
theorem test_witness_InvariantHoldsAtReset : construct sampleConfig = .ok State.reset := rfl

theorem test_reset_inv : Inv State.reset :=
  ⟨by decide, by decide, by decide, by decide, by decide, by decide, by decide, by decide, by decide, by decide⟩

/-- The invariant in a state with two timers due; with its step: for the statements about a step from it. -/
theorem test_bothDue_inv : Inv bothDueState :=
  ⟨by decide, by decide, by decide, by decide, by decide, by decide, by decide, by decide, by decide, by decide⟩
theorem test_witness_InvariantKeptByStep : Inv (offer (.due 1) bothDueState)
    ∧ (∃ t, step (offer (.due 1) bothDueState) = .next t) ∧ EdgesOk bothDueState ∧ DeliveriesOk bothDueState :=
  ⟨⟨by decide, by decide, by decide, by decide, by decide, by decide, by decide, by decide, by decide, by decide⟩,
    ⟨_, rfl⟩, by decide, by decide⟩
theorem test_witness_CounterBelowModulusWhenNothingDue :
    Inv (timerState baseTimer 499999999)
      ∧ (∀ T ∈ (timerState baseTimer 499999999).vct, T.deadline ≠ some (timerState baseTimer 499999999).now)
      ∧ ((timerState baseTimer 499999999).vctAt 0).Counting :=
  ⟨⟨by decide, by decide, by decide, by decide, by decide, by decide, by decide, by decide, by decide, by decide⟩,
    by decide, by decide⟩
theorem test_witness_NextDeadlineRoundTrip : Inv bothDueState ∧ (bothDueState.vctAt 1).deadline = some 500000000
    ∧ Inv (timerState baseTimer 499999999) ∧ ((timerState baseTimer 499999999).vctAt 0).deadline = some 500000000 :=
  ⟨test_bothDue_inv, by decide, test_witness_CounterBelowModulusWhenNothingDue.1, by decide⟩
theorem test_witness_DuePassOrderDoesNotMatter : Inv bothDueState ∧ 0 < bothDueState.cfg.nVCT ∧ 1 < bothDueState.cfg.nVCT
    ∧ (bothDueState.vctAt 0).deadline = some bothDueState.now ∧ (bothDueState.vctAt 1).deadline = some bothDueState.now :=
  ⟨test_bothDue_inv, by decide, by decide, by decide, by decide⟩
/-- Timer 1, unrouted, at its alarm, its overflow and its alarm again: three passes and the clock steps between them. -/
def cycleState : State :=
  { State.reset with vct := [Vct.reset 1, baseTimer], now := 500000000,
                     inputs := [.due 1, .advance 500000000, .due 1, .advance 500000000, .due 1] }
theorem test_witness_AlarmFiresOncePerCycle : cycleState.Shape ∧ 1 < cycleState.cfg.nVCT ∧ 0 < alarmCount cycleState.cfg 1
    ∧ cycleMarks 1 0 5 cycleState = [.fires, .opens, .fires] := by decide
theorem test_witness_AlarmAboveModulusNeverFires : Inv (offer (.due 1) bothDueState)
    ∧ (∀ T ∈ bothDueState.vct, T.OnTime bothDueState.now)
    ∧ ∃ u, step (offer (.due 1) bothDueState) = .next u
      ∧ .fire 1 (.alarm 0) ∈ newEvents (offer (.due 1) bothDueState) u :=
  ⟨test_witness_InvariantKeptByStep.1, by decide, ⟨_, rfl, by decide⟩⟩
/-- The base timer at 0 Hz with its counter at 250, for a modulus of 250. -/
def frozenTimer : Vct := { baseTimer with frequencyHz := some 0, counterBase := 250, deadline := none }
theorem test_witness_RestAtModulusOnlyAfterCommand :
    Inv (offer (.command 0x55000000#32 250#64) (timerState frozenTimer 7))
      ∧ ¬ ((timerState frozenTimer 7).vctAt 0).RestsAtModulus
      ∧ ∃ u, step (offer (.command 0x55000000#32 250#64) (timerState frozenTimer 7)) = .next u
        ∧ (u.vctAt 0).RestsAtModulus :=
  ⟨⟨by decide, by decide, by decide, by decide, by decide, by decide, by decide, by decide, by decide, by decide⟩,
    by decide, ⟨_, rfl, by decide⟩⟩
/-- A timer that rests at its modulus, in a state with the invariant; R184: the next rate makes its pass due at once. -/
theorem test_witness_RestAtModulusOnlyAfterCommand_ends :
    Inv (timerState { frozenTimer with overflowModulus := some 250 } 7)
      ∧ ((timerState { frozenTimer with overflowModulus := some 250 } 7).vctAt 0).RestsAtModulus
      ∧ ((after (.vctSetfreq 0 1) (timerState { frozenTimer with overflowModulus := some 250 } 7)).vctAt 0).deadline
        = some 7 :=
  ⟨⟨by decide, by decide, by decide, by decide, by decide, by decide, by decide, by decide, by decide, by decide⟩,
    by decide, by decide⟩
/-- R274, R275, by hand: 3 ticks a nanosecond, a count of 12 past the modulus 10 at 4 ns; the alarm at the modulus fires,
the one at 11 does not (log 26). -/
theorem test_fast_pass : firesOf (tickPass 1 { State.reset with
      cfg := { sampleConfig with timers := [⟨1, .none, [.none]⟩, ⟨2, .none, [.none, .none]⟩] }, now := 4,
      vct := [Vct.reset 1, ⟨some 3000000000, 0, 0, some 10, [⟨some 11, false⟩, ⟨some 10, false⟩], true, some 4⟩] }).trace
    = [.fire 1 (.alarm 1), .fire 1 .overflow] := by decide
theorem test_witness_RepeatedCommandsChangeNothing :
    State.reset.Shape ∧ (∃ t, exec (.vctNext 1) State.reset = .next t) ∧ isPureRead (.vctNext 1) = true
      ∧ (∃ t, exec (.srlSet 0 0x9005#16) State.reset = .next t) ∧ isIdempotentWrite (.srlSet 0 0x9005#16) = true :=
  ⟨by decide, ⟨_, rfl⟩, rfl, ⟨_, rfl⟩, rfl⟩

end Sys2Proof.Tests
end

