-- ==== Sys2Proof/Proofs/Scope.lean ====
section
/-! SUPPORT. The scope of a step (`spec/00_scope.md`): how a command ends, what no command changes, and that only
ClockControl operations meet ClockControl state (O12, O14, O15, O22). -/

namespace Sys2Proof.Machine

/-! ### What no command changes, unless it faults -/

/-- The fields no operation of a unit writes: the configuration, the fault record, `NOW` and the environment's moves. -/
structure KeepsGlobals (s u : State) : Prop where
  cfg : u.cfg = s.cfg
  fault : u.fault = s.fault
  now : u.now = s.now
  inputs : u.inputs = s.inputs

theorem KeepsGlobals.refl (s : State) : KeepsGlobals s s := ⟨rfl, rfl, rfl, rfl⟩

theorem KeepsGlobals.trans {s u w : State} (h : KeepsGlobals s u) (h' : KeepsGlobals u w) : KeepsGlobals s w :=
  ⟨h'.cfg.trans h.cfg, h'.fault.trans h.fault, h'.now.trans h.now, h'.inputs.trans h.inputs⟩

theorem setVct_keepsGlobals (t : Nat) (T : Vct) (s : State) : KeepsGlobals s (s.setVct t T) := ⟨rfl, rfl, rfl, rfl⟩

theorem schedule_keepsGlobals (t : Nat) (s : State) : KeepsGlobals s (schedule t s) := setVct_keepsGlobals ..

theorem schedule_setVct_keepsGlobals (t : Nat) (T : Vct) (s : State) : KeepsGlobals s (schedule t (s.setVct t T)) :=
  (setVct_keepsGlobals ..).trans (schedule_keepsGlobals ..)

theorem fire_keepsGlobals (t : Nat) (k : Callback) (s : State) : KeepsGlobals s (fire t k s) := by
  constructor <;> simp

theorem alarmStep_keepsGlobals (t c : Nat) (s : State) (i : Nat) : KeepsGlobals s (alarmStep t c s i) := by
  simp only [alarmStep]
  split
  · exact (setVct_keepsGlobals ..).trans (fire_keepsGlobals ..)
  · exact .refl s

theorem alarmPass_keepsGlobals (t c : Nat) (s : State) : KeepsGlobals s (alarmPass t c s) :=
  List.foldlRecOn _ _ (.refl s) fun _ h i _ => h.trans (alarmStep_keepsGlobals t c _ i)

theorem overflowPass_keepsGlobals (t : Nat) (s : State) : KeepsGlobals s (overflowPass t s) :=
  (((setVct_keepsGlobals ..).trans (fire_keepsGlobals ..)).trans (setVct_keepsGlobals ..)).trans
    (alarmPass_keepsGlobals ..)

theorem tickPass_keepsGlobals (t : Nat) (s : State) : KeepsGlobals s (tickPass t s) := by
  unfold tickPass
  split
  · exact setVct_keepsGlobals ..
  · refine .trans ?_ (schedule_keepsGlobals ..)
    split
    · exact (alarmPass_keepsGlobals ..).trans (overflowPass_keepsGlobals ..)
    · exact alarmPass_keepsGlobals ..

/-! ### How a command ends (R11, R230) -/

/-- A command issued in state `s` ends in a fault, which discards its effects, or completes with a response word. -/
inductive CommandEnds (s : State) : Result → Prop
  | faults (r : FaultRecord) : CommandEnds s (.next (s.faulted r))
  | completes (v : DoubleWord) (u : State) (h : KeepsGlobals s u) : CommandEnds s (.next (u.setResp (some v)))

theorem raise_ends (r : FaultRecord) (s : State) : CommandEnds s (.next (raise r s)) :=
  raise_eq_faulted r s ▸ .faults r

theorem done_ends {s u : State} (v : DoubleWord) (h : KeepsGlobals s u) : CommandEnds s (done v u) := .completes v u h

/-- The index check adds one more way to fault (R61). -/
theorem withUnit_ends {s : State} {body : Result} (space : IndexSpace) (i : Nat) (h : CommandEnds s body) :
    CommandEnds s (withUnit space i s body) := by
  unfold withUnit
  split
  · exact raise_ends ..
  · exact h

/-- A command with one unit index and no fault of its own. -/
theorem withUnit_done_ends {s u : State} {space : IndexSpace} {i : Nat} {v : DoubleWord} (h : KeepsGlobals s u) :
    CommandEnds s (withUnit space i s (done v u)) := withUnit_ends space i (done_ends v h)

theorem execArbAck_ends (k : IrqClass) (s : State) : CommandEnds s (execArbAck k s) := by
  unfold execArbAck
  split
  · exact raise_ends ..
  · exact done_ends _ (by constructor <;> simp)

theorem execVctStart_ends (t : Nat) (s : State) : CommandEnds s (execVctStart t s) := by
  refine withUnit_ends _ _ ?_
  split
  · exact done_ends _ (.refl s)
  · split
    · exact done_ends _ (schedule_setVct_keepsGlobals ..)
    · exact raise_ends ..

theorem execVctStop_ends (t : Nat) (s : State) : CommandEnds s (execVctStop t s) := by
  refine withUnit_ends _ _ ?_
  split
  · exact done_ends _ (setVct_keepsGlobals ..)
  · exact done_ends _ (.refl s)

theorem execVctSetovf_ends (t modulus : Nat) (s : State) : CommandEnds s (execVctSetovf t modulus s) := by
  refine withUnit_ends _ _ ?_
  split
  · exact raise_ends ..
  · exact done_ends _ (schedule_setVct_keepsGlobals ..)

theorem execVctSetalarm_ends (t alarm ticks : Nat) (s : State) : CommandEnds s (execVctSetalarm t alarm ticks s) := by
  refine withUnit_ends _ _ ?_
  split
  · exact raise_ends ..
  · exact done_ends _ (schedule_setVct_keepsGlobals ..)

/-- Both ends of a command are next states. -/
theorem CommandEnds.next {s : State} {res : Result} (h : CommandEnds s res) : ∃ t, res = .next t := by
  cases h with
  | faults r => exact ⟨_, rfl⟩
  | completes v u _ => exact ⟨_, rfl⟩

/-- Every command, in every state, ends in a fault or completes (R11, R12). -/
theorem exec_ends (i : Instr) (s : State) : CommandEnds s (exec i s) := by
  cases i with
  | clcGet | clcIsen | clcGetpre | srlGet | srbGetmask | srbGetraw | srbGetmis | srbxGetmask | srbxGetraw | srbxGetmis
  | vctGetcnt | vctNext => exact withUnit_done_ends (.refl s)
  | clcInit | clcSet => exact withUnit_done_ends ⟨rfl, rfl, rfl, rfl⟩
  | srlSet | srlAssert | srlClear | srbSetmask | srbSetraw | srbClearraw | srbxSetmask | srbxSetraw | srbxClearraw
  | arbSetlevel => exact withUnit_done_ends (by constructor <;> simp)
  | arbTake | arbSetmask => exact done_ends _ (by constructor <;> simp)
  | arbAck k => exact execArbAck_ends k s
  | vctStart t => exact execVctStart_ends t s
  | vctStop t => exact execVctStop_ends t s
  | vctReset | vctSetfreq => exact withUnit_done_ends (schedule_setVct_keepsGlobals ..)
  | vctSetovf t modulus => exact execVctSetovf_ends t modulus s
  | vctSetalarm t alarm ticks => exact execVctSetalarm_ends t alarm ticks s
  | vctTick t => exact withUnit_done_ends (tickPass_keepsGlobals t s)

/-- The next state of a command: the faulted one, or one with the configuration, the fault record, `NOW` and the inputs
as before. -/
theorem exec_cases {i : Instr} {s t : State} (h : exec i s = .next t) : (∃ r, t = s.faulted r) ∨ KeepsGlobals s t := by
  have he := exec_ends i s
  rw [h] at he
  cases he with
  | faults r => exact .inl ⟨r, rfl⟩
  | completes v u hu => exact .inr (hu.trans ⟨rfl, rfl, rfl, rfl⟩)

theorem faulted_of_fault_none {s : State} (r : FaultRecord) (h : s.fault = none) :
    s.faulted r = { s with fault := some r, resp := none } := by simp [State.faulted, h]

theorem faulted_fault_of_some {s : State} {r : FaultRecord} (r' : FaultRecord) (h : s.fault = some r) :
    (s.faulted r').fault = some r := by simp [State.faulted, h]

/-- With the fault record set no step is enabled (R219, R230). -/
theorem step_of_fault {s : State} {r : FaultRecord} (h : s.fault = some r) : step s = .fault (.stopped r) := by
  simp [step, h]

/-! ### Only ClockControl operations meet ClockControl state (R3, R250) -/

/-- The state with other ClockControl units. -/
def State.withClc (s : State) (clc : List Clc) : State := { s with clc := clc }

/-- The result with other ClockControl units in its next state. -/
def resultWithClc (clc : List Clc) : Result → Result
  | .next t => .next (t.withClc clc)
  | .fault f => .fault f
  | .refused r => .refused r

section
variable (clc : List Clc) (s : State)

theorem withClc_eq_withRest : s.withClc clc = s.withRest clc s.vct s.fault s.now s.resp s.inputs := rfl

@[simp] theorem withClc_cfg : (s.withClc clc).cfg = s.cfg := rfl
@[simp] theorem withClc_now : (s.withClc clc).now = s.now := rfl
@[simp] theorem withClc_srlAt (r : Nat) : (s.withClc clc).srlAt r = s.srlAt r := rfl
@[simp] theorem withClc_srbAt (b : Nat) : (s.withClc clc).srbAt b = s.srbAt b := rfl
@[simp] theorem withClc_srbxAt (x : Nat) : (s.withClc clc).srbxAt x = s.srbxAt x := rfl
@[simp] theorem withClc_lineAt (i : Nat) : (s.withClc clc).lineAt i = s.lineAt i := rfl
@[simp] theorem withClc_vctAt (t : Nat) : (s.withClc clc).vctAt t = s.vctAt t := rfl
@[simp] theorem withClc_classAt (k : IrqClass) : (s.withClc clc).classAt k = s.classAt k := by cases k <;> rfl

@[simp] theorem withClc_setSrl (r : Nat) (u : Srl) : (s.withClc clc).setSrl r u = (s.setSrl r u).withClc clc := rfl
@[simp] theorem withClc_setSrb (b : Nat) (u : Srb) : (s.withClc clc).setSrb b u = (s.setSrb b u).withClc clc := rfl
@[simp] theorem withClc_setLine (i : Nat) (u : ArbLine) :
    (s.withClc clc).setLine i u = (s.setLine i u).withClc clc := rfl
@[simp] theorem withClc_setVct (t : Nat) (T : Vct) : (s.withClc clc).setVct t T = (s.setVct t T).withClc clc := rfl
@[simp] theorem withClc_emit (e : Event) : (s.withClc clc).emit e = (s.emit e).withClc clc := rfl
@[simp] theorem withClc_setClass (k : IrqClass) (u : ArbClass) :
    (s.withClc clc).setClass k u = (s.setClass k u).withClc clc := by cases k <;> rfl

/-! What the laws of `withRest` say for the ClockControl units alone. -/

@[simp] theorem arbitrate_withClc (k : IrqClass) : arbitrate k (s.withClc clc) = (arbitrate k s).withClc clc := by
  simp [withClc_eq_withRest, arbitrate_withRest]
@[simp] theorem rearbitrate_withClc (k : IrqClass) :
    rearbitrate k (s.withClc clc) = (rearbitrate k s).withClc clc := by
  simp [withClc_eq_withRest, rearbitrate_withRest]
@[simp] theorem setLevel_withClc (id : Nat) (cls : IrqClass) (p n : Byte) (l : Bool) :
    setLevel id cls p n l (s.withClc clc) = (setLevel id cls p n l s).withClc clc := by
  simp [withClc_eq_withRest, setLevel_withRest]
@[simp] theorem srlUpdate_withClc (r : Nat) : srlUpdate r (s.withClc clc) = (srlUpdate r s).withClc clc := by
  simp [withClc_eq_withRest, srlUpdate_withRest]
@[simp] theorem srbUpdate_withClc (b : Nat) : srbUpdate b (s.withClc clc) = (srbUpdate b s).withClc clc := by
  simp [withClc_eq_withRest, srbUpdate_withRest]
@[simp] theorem srbxChange_withClc (x : Nat) (u : Srbx) :
    srbxChange x u (s.withClc clc) = (srbxChange x u s).withClc clc := by
  simp [withClc_eq_withRest, srbxChange_withRest]
@[simp] theorem fire_withClc (t : Nat) (k : Callback) : fire t k (s.withClc clc) = (fire t k s).withClc clc := by
  simp [withClc_eq_withRest, fire_withRest]

@[simp] theorem srlSetPending_withClc (r : Nat) (p : Bool) :
    srlSetPending r p (s.withClc clc) = (srlSetPending r p s).withClc clc := by simp [srlSetPending]
@[simp] theorem srbSetMaskBits_withClc (b : Nat) (bits : Word) :
    srbSetMaskBits b bits (s.withClc clc) = (srbSetMaskBits b bits s).withClc clc := by simp [srbSetMaskBits]
@[simp] theorem srbSetRawBits_withClc (b : Nat) (bits : Word) :
    srbSetRawBits b bits (s.withClc clc) = (srbSetRawBits b bits s).withClc clc := by simp [srbSetRawBits]
@[simp] theorem srbClearRawBits_withClc (b : Nat) (bits : Word) :
    srbClearRawBits b bits (s.withClc clc) = (srbClearRawBits b bits s).withClc clc := by simp [srbClearRawBits]
@[simp] theorem srbxSetRawBits_withClc (x : Nat) (bits : Word) :
    srbxSetRawBits x bits (s.withClc clc) = (srbxSetRawBits x bits s).withClc clc := by simp [srbxSetRawBits]

@[simp] theorem takenLine_withClc (k : IrqClass) : takenLine k (s.withClc clc) = takenLine k s := by simp [takenLine]
@[simp] theorem takeLine_withClc (k : IrqClass) : takeLine k (s.withClc clc) = (takeLine k s).withClc clc := by
  simp only [takeLine, withClc_classAt]
  split <;> simp
@[simp] theorem consumeLine_withClc (k : IrqClass) (i : Nat) :
    consumeLine k i (s.withClc clc) = (consumeLine k i s).withClc clc := by
  by_cases h : (s.cfg.ackConsumes && (s.lineAt i).cls == k) = true <;> simp [consumeLine, h]
@[simp] theorem ackLine_withClc (k : IrqClass) (i : Nat) :
    ackLine k i (s.withClc clc) = (ackLine k i s).withClc clc := by simp [ackLine]

@[simp] theorem schedule_withClc (t : Nat) : schedule t (s.withClc clc) = (schedule t s).withClc clc := rfl
@[simp] theorem alarmStep_withClc (t c i : Nat) :
    alarmStep t c (s.withClc clc) i = (alarmStep t c s i).withClc clc := by
  by_cases h : ((s.vctAt t).alarms[i]?.getD Alarm.reset).reached c = true <;> simp [alarmStep, h]
@[simp] theorem alarmPass_withClc (t c : Nat) : alarmPass t c (s.withClc clc) = (alarmPass t c s).withClc clc :=
  List.foldl_hom (State.withClc · clc) fun u i => alarmStep_withClc clc u t c i
@[simp] theorem overflowPass_withClc (t : Nat) :
    overflowPass t (s.withClc clc) = (overflowPass t s).withClc clc := by simp [overflowPass]
@[simp] theorem tickPass_withClc (t : Nat) : tickPass t (s.withClc clc) = (tickPass t s).withClc clc := by
  cases hr : (s.vctAt t).rate with
  | none => simp [tickPass, hr]
  | some f => by_cases ho : (s.vctAt t).overflows ((s.vctAt t).count s.now) = true <;> simp [tickPass, hr, ho]

@[simp] theorem resultWithClc_next : resultWithClc clc (.next s) = .next (s.withClc clc) := rfl
@[simp] theorem raise_withClc (r : FaultRecord) : raise r (s.withClc clc) = (raise r s).withClc clc := rfl
@[simp] theorem done_withClc (v : DoubleWord) : done v (s.withClc clc) = resultWithClc clc (done v s) := rfl
theorem withUnit_withClc {space : IndexSpace} {i : Nat} {body body' : Result} (h : body' = resultWithClc clc body) :
    withUnit space i (s.withClc clc) body' = resultWithClc clc (withUnit space i s body) := by
  subst h
  by_cases hi : unitCount s.cfg space ≤ i <;> simp [withUnit, hi]

theorem execArbAck_withClc (k : IrqClass) :
    execArbAck k (s.withClc clc) = resultWithClc clc (execArbAck k s) := by
  simp only [execArbAck, withClc_classAt]
  split <;> simp

theorem execVctStart_withClc (t : Nat) :
    execVctStart t (s.withClc clc) = resultWithClc clc (execVctStart t s) := by
  refine withUnit_withClc clc s ?_
  by_cases hr : (s.vctAt t).running = true
  · simp [hr]
  · by_cases hw : (s.vctAt t).written = true <;> simp [hr, hw]

theorem execVctStop_withClc (t : Nat) :
    execVctStop t (s.withClc clc) = resultWithClc clc (execVctStop t s) := by
  refine withUnit_withClc clc s ?_
  by_cases hr : (s.vctAt t).running = true <;> simp [hr]

theorem execVctSetovf_withClc (t modulus : Nat) :
    execVctSetovf t modulus (s.withClc clc) = resultWithClc clc (execVctSetovf t modulus s) := by
  refine withUnit_withClc clc s ?_
  by_cases hm : modulus = 0 <;> simp [hm]

theorem execVctSetalarm_withClc (t alarm ticks : Nat) :
    execVctSetalarm t alarm ticks (s.withClc clc) = resultWithClc clc (execVctSetalarm t alarm ticks s) := by
  refine withUnit_withClc clc s ?_
  by_cases ha : alarmCount s.cfg t ≤ alarm
  · simp [ha]
  · rw [if_neg ha]
    exact if_neg ha

/-- Every operation but ClockControl's does the same whatever the ClockControl units hold, and keeps them. -/
theorem exec_withClc {i : Instr} (hi : isClc i = false) :
    exec i (s.withClc clc) = resultWithClc clc (exec i s) := by
  cases i with
  | clcInit | clcSet | clcGet | clcIsen | clcGetpre => cases hi
  | srlGet | srbGetmask | srbGetraw | srbGetmis | srbxGetmask | srbxGetraw | srbxGetmis | vctGetcnt | vctNext =>
    exact withUnit_withClc clc s rfl
  | srlSet | srlAssert | srlClear | srbSetmask | srbSetraw | srbClearraw | srbxSetmask | srbxSetraw | srbxClearraw
  | arbSetlevel | vctReset | vctSetfreq | vctTick => exact withUnit_withClc clc s (by simp)
  | arbTake => simp [exec, execArbTake]
  | arbAck k => exact execArbAck_withClc clc s k
  | arbSetmask => simp [exec, execArbSetmask]
  | vctStart t => exact execVctStart_withClc clc s t
  | vctStop t => exact execVctStop_withClc clc s t
  | vctSetovf t modulus => exact execVctSetovf_withClc clc s t modulus
  | vctSetalarm t alarm ticks => exact execVctSetalarm_withClc clc s t alarm ticks

end

/-- A ClockControl operation checks its index, and then at most its units and the response word change. -/
theorem exec_of_isClc {i : Instr} (s : State) (hi : isClc i = true) :
    ∃ c v clc, exec i s = withUnit .clc c s (done v (s.withClc clc)) := by
  cases i with
  | clcInit c | clcSet c | clcGet c | clcIsen c | clcGetpre c => exact ⟨c, _, _, rfl⟩
  | _ => cases hi

/-! ### The statements -/

/-- Settles O12: of the kinds of step (`step_cases`), a fault writes only the fault record and the response, and a
completing command, a clock step and a scheduling pass keep the configuration. -/
theorem configurationNeverChanges : Obligations.ConfigurationNeverChanges := by
  intro s t h
  obtain ⟨-, -, m, rest, -, ⟨cmd, data, -, -, ⟨i, -, hx⟩ | ⟨e, -, rfl⟩⟩ | ⟨d, -, -, rfl⟩ | ⟨n, -, -, rfl⟩⟩ :=
    step_cases h
  · obtain ⟨r, rfl⟩ | hk := exec_cases hx
    · rfl
    · exact hk.cfg
  · rfl
  · rfl
  · exact (tickPass_keepsGlobals n _).cfg

/-- Settles O15: a command that completes keeps the fault record, so one that sets it ended in `faulted`. -/
theorem faultingCommandChangesNothingElse : Obligations.FaultingCommandChangesNothingElse := by
  intro i s t h
  obtain ⟨r, rfl⟩ | hk := exec_cases h
  · refine ⟨fun hs _ => ⟨r, faulted_of_fault_none r hs, ?_⟩, fun r' hs => faulted_fault_of_some r hs⟩
    rw [faulted_of_fault_none r hs]
    exact step_of_fault rfl
  · exact ⟨fun hs ht => absurd (hk.fault.trans hs) ht, fun r hs => hk.fault.trans hs⟩

/-- Settles O22: one side is `exec_withClc`, the other the two ends of `exec_of_isClc`. -/
theorem clockControlGatesNothing : Obligations.ClockControlGatesNothing := by
  intro i s t h
  refine ⟨fun hi clc => ?_, fun hi => ?_⟩
  · exact (exec_withClc clc s hi).trans (congrArg (resultWithClc clc) h)
  · obtain ⟨c, v, clc, hx⟩ := exec_of_isClc s hi
    rw [hx] at h
    unfold withUnit at h
    split at h
    · cases h; rfl
    · cases h; rfl

/-- Settles O14: a command faults or completes, and both are next states. -/
theorem everyCommandCompletes : Obligations.EveryCommandCompletes :=
  fun i s => (exec_ends i s).next

end Sys2Proof.Machine
end

