-- ==== Sys2Proof/Proofs/State.lean ====
section
/-! SUPPORT. The state (`spec/10_state.md`): construction and reset, and the invariant of R35, by its parts: the units and
the Arbiter, which commands and routes write, and the timers, which commands and passes write (O17, O37, O48, O50, O51,
O54, O60). -/

namespace Sys2Proof.Machine

/-! ### The 64-bit operand of a command (R82) -/

/-- The timer quantity that a command carries in `DATA[63:0]` (R82). -/
def timerOperand : Instr → Option Nat
  | .vctSetfreq _ n | .vctSetovf _ n | .vctSetalarm _ _ n => some n
  | _ => none

theorem eq_of_subZero {sub : Nat} {i j : Instr} (h : subZero sub i = .ok j) : j = i := by
  unfold subZero at h
  split at h
  · cases h; rfl
  · cases h

theorem eq_of_subClass {sub : Nat} {i : IrqClass → Instr} {j : Instr} (h : subClass sub i = .ok j) : ∃ k, j = i k := by
  unfold subClass at h
  split at h
  · cases h; exact ⟨_, rfl⟩
  · split at h
    · cases h; exact ⟨_, rfl⟩
    · cases h

theorem eq_of_subClassIdxZero {sub idx : Nat} {i : IrqClass → Instr} {j : Instr}
    (h : subClassIdxZero sub idx i = .ok j) : ∃ k, j = i k := by
  unfold subClassIdxZero at h
  split at h
  · exact eq_of_subClass h
  · cases h

theorem decodeClc_timerOperand {op sub idx : Nat} {data : DoubleWord} {i : Instr}
    (h : decodeClc op sub idx data = .ok i) : timerOperand i = none := by
  unfold decodeClc at h
  split at h
  iterate 5 · cases eq_of_subZero h; rfl
  · cases h

theorem decodeSrl_timerOperand {op sub idx : Nat} {data : DoubleWord} {i : Instr}
    (h : decodeSrl op sub idx data = .ok i) : timerOperand i = none := by
  unfold decodeSrl at h
  split at h
  iterate 4 · cases eq_of_subZero h; rfl
  · cases h

theorem decodeSrb_timerOperand {op sub idx : Nat} {data : DoubleWord} {i : Instr}
    (h : decodeSrb op sub idx data = .ok i) : timerOperand i = none := by
  unfold decodeSrb at h
  split at h
  iterate 6 · cases eq_of_subZero h; rfl
  · cases h

theorem decodeSrbx_timerOperand {op sub idx : Nat} {data : DoubleWord} {i : Instr}
    (h : decodeSrbx op sub idx data = .ok i) : timerOperand i = none := by
  unfold decodeSrbx at h
  split at h
  iterate 6 · cases eq_of_subZero h; rfl
  · cases h

theorem decodeArb_timerOperand {op sub idx : Nat} {data : DoubleWord} {i : Instr}
    (h : decodeArb op sub idx data = .ok i) : timerOperand i = none := by
  unfold decodeArb at h
  split at h
  · obtain ⟨k, rfl⟩ := eq_of_subClass h; rfl
  iterate 3 · obtain ⟨k, rfl⟩ := eq_of_subClassIdxZero h; rfl
  · cases h

theorem decodeVct_timerOperand {op sub idx : Nat} {data : DoubleWord} {i : Instr}
    (h : decodeVct op sub idx data = .ok i) : timerOperand i = none ∨ timerOperand i = some data.toNat := by
  unfold decodeVct at h
  split at h
  iterate 3 · cases eq_of_subZero h; exact .inl rfl
  iterate 2 · cases eq_of_subZero h; exact .inr rfl
  · cases h; exact .inr rfl
  iterate 3 · cases eq_of_subZero h; exact .inl rfl
  · cases h

/-- A timer quantity is the whole data word (R82). -/
theorem decode_timerOperand {cmd : Word} {data : DoubleWord} {i : Instr} (h : decode cmd data = .ok i) :
    timerOperand i = none ∨ timerOperand i = some data.toNat := by
  unfold decode at h
  split at h
  · exact .inl (decodeClc_timerOperand h)
  · exact .inl (decodeSrl_timerOperand h)
  · exact .inl (decodeSrb_timerOperand h)
  · exact .inl (decodeSrbx_timerOperand h)
  · exact .inl (decodeArb_timerOperand h)
  · exact decodeVct_timerOperand h
  · cases h

theorem decode_vctSetovf {cmd : Word} {data : DoubleWord} {t m : Nat} (h : decode cmd data = .ok (.vctSetovf t m)) :
    m = data.toNat := by
  simpa [timerOperand] using decode_timerOperand h

/-- The quantity a decoded command carries is in the range of R5. -/
theorem decode_timerOperand_lt {cmd : Word} {data : DoubleWord} {i : Instr} (h : decode cmd data = .ok i) :
    ∀ n ∈ timerOperand i, n < timerBound := by
  intro n hn
  obtain h | h := decode_timerOperand h
  · rw [h] at hn; cases hn
  · rw [h] at hn; cases hn; exact data.isLt

/-! ### The winner of a class (R150, R151) -/

theorem wins_unique {s : State} {k : IrqClass} {w w' : Option Nat} (h : Wins s k w) (h' : Wins s k w') : w = w' := by
  cases w with
  | none =>
    cases w' with
    | none => rfl
    | some j =>
      obtain ⟨hj, hc, -⟩ := h'.2 (by simp)
      exact absurd (h.1 rfl j hj) (by simpa using hc)
  | some i =>
    obtain ⟨hi, hci, hfi⟩ := h.2 (by simp)
    cases w' with
    | none => exact absurd (h'.1 rfl i hi) (by simpa using hci)
    | some j =>
      obtain ⟨hj, hcj, hfj⟩ := h'.2 (by simp)
      obtain rfl | hij := hfi j hj hcj
      · rfl
      · obtain rfl | hji := hfj i hi hci
        · rfl
        · exact absurd hji (by simpa using standsBefore_asymm s hij)

theorem competes_of_not_asserted {s : State} {k : IrqClass} {i : Nat} (h : (s.lineAt i).asserted = false) :
    competes s k i = false := by simp [competes, h]

theorem competes_of_class_ne {s : State} {k k' : IrqClass} {i : Nat} (hk : k' ≠ k)
    (h : (s.lineAt i).isFastClass = true ↔ k = .fast) : competes s k' i = false := by
  cases k <;> cases k' <;> simp_all [competes]

theorem competes_congr {s t : State} {k : IrqClass} {i : Nat} (hl : t.lineAt i = s.lineAt i)
    (hm : (t.classAt k).maskBelowPriority = (s.classAt k).maskBelowPriority) : competes t k i = competes s k i := by
  simp [competes, hl, hm]

/-- A line that does not compete in a class, before or after it is rewritten, does not matter to the winner. -/
theorem wins_of_line_apart {s t : State} {k : IrqClass} {w : Option Nat} {id : Nat} (hc : t.cfg = s.cfg)
    (hm : (t.classAt k).maskBelowPriority = (s.classAt k).maskBelowPriority)
    (hl : ∀ i < s.cfg.nLINES, i ≠ id → t.lineAt i = s.lineAt i) (hs : competes s k id = false)
    (ht : competes t k id = false) (h : Wins s k w) : Wins t k w := by
  have hcomp : ∀ i < s.cfg.nLINES, competes t k i = competes s k i := fun i hi => by
    by_cases hid : i = id
    · rw [hid, hs, ht]
    · exact competes_congr (hl i hi hid) hm
  have hne : ∀ i, competes s k i = true → i ≠ id := fun i hi hid => by simp [hid, hs] at hi
  refine ⟨fun hw i hi => ?_, fun hw => ?_⟩
  · rw [hc] at hi
    rw [hcomp i hi]
    exact h.1 hw i hi
  · obtain ⟨hlt, hw, hfirst⟩ := h.2 hw
    rw [StandsFirst, hc]
    refine ⟨hlt, by rwa [hcomp _ hlt], fun j hj hcj => ?_⟩
    rw [hcomp j hj] at hcj
    have := hfirst j hj hcj
    simpa only [standsBefore, hl _ hlt (hne _ hw), hl j hj (hne j hcj)] using this

/-- A line written at index `i` is there, or `i` is beyond the table. -/
theorem lineAt_setLine (s : State) (i : Nat) (u : ArbLine) :
    (s.setLine i u).lineAt i = u ∨ ((s.setLine i u).lineAt i = ArbLine.reset ∧ s.lineAt i = ArbLine.reset) := by
  by_cases hi : i < s.lines.length
  · exact .inl (lineAt_setLine_self s u hi)
  · exact .inr (by simp [State.lineAt, hi])

/-- Consuming a line takes it out of its class and leaves every other line alone (R155). -/
theorem consumeLine_cases (k : IrqClass) (i : Nat) (s : State) :
    consumeLine k i s = s ∨ ((s.lineAt i).cls = k ∧ ((consumeLine k i s).lineAt i).asserted = false
      ∧ ∀ j, j ≠ i → (consumeLine k i s).lineAt j = s.lineAt j) := by
  unfold consumeLine
  split
  · rename_i h
    simp only [Bool.and_eq_true, beq_iff_eq] at h
    refine .inr ⟨h.2, ?_, fun j hj => lineAt_setLine_ne s _ hj⟩
    obtain hw | ⟨hw, -⟩ := lineAt_setLine s i { s.lineAt i with asserted := false }
    · rw [hw]
    · rw [hw]; rfl
  · exact .inl rfl

theorem consumeLine_weight (k : IrqClass) (i : Nat) (s : State) (j : Nat) :
    ((consumeLine k i s).lineAt j).nestWeight = (s.lineAt j).nestWeight := by
  unfold consumeLine
  split
  · by_cases hj : j = i
    · subst hj
      obtain hw | ⟨hw, hs⟩ := lineAt_setLine s j { s.lineAt j with asserted := false }
      · rw [hw]
      · rw [hw, hs]
    · rw [lineAt_setLine_ne _ _ hj]
  · rfl

theorem consumeLine_length (k : IrqClass) (i : Nat) (s : State) :
    (consumeLine k i s).lines.length = s.lines.length := by
  unfold consumeLine
  split <;> simp

theorem ackLine_lineAt (k : IrqClass) (i : Nat) (s : State) (j : Nat) :
    (ackLine k i s).lineAt j = (consumeLine k i s).lineAt j := by simp [State.lineAt, ackLine_lines]

theorem cls_eq_iff {l : ArbLine} {k : IrqClass} : l.cls = k ↔ (l.isFastClass = true ↔ k = .fast) := by
  unfold ArbLine.cls
  cases k <;> cases l.isFastClass <;> simp

/-- An acknowledge in one class does not matter to the winner of the other (R158). -/
theorem ackLine_wins_ne {k k' : IrqClass} (i : Nat) {s : State} {w : Option Nat} (hk : k' ≠ k) (h : Wins s k' w) :
    Wins (ackLine k i s) k' w := by
  have hmask : ((ackLine k i s).classAt k').maskBelowPriority = (s.classAt k').maskBelowPriority := by
    rw [ackLine_classAt_ne i s hk]
  obtain hs | ⟨hcls, hoff, hrest⟩ := consumeLine_cases k i s
  · exact wins_congr (ackLine_cfg k i s) (fun j _ => by rw [ackLine_lineAt, hs]) hmask h
  · exact wins_of_line_apart (ackLine_cfg k i s) hmask (fun j _ hj => by rw [ackLine_lineAt, hrest j hj])
      (competes_of_class_ne hk (cls_eq_iff.mp hcls)) (competes_of_not_asserted (by rw [ackLine_lineAt, hoff])) h

/-! ### The Arbiter's part of the invariant (R27, R35 (c), (d)) -/

theorem classOk_of_rearbitrated {s t : State} {k : IrqClass} (hc : t.cfg = s.cfg) (h : Rearbitrated s t k)
    (hs : ClassOk s k) : ClassOk t k := by
  obtain ⟨hlock, hsel⟩ := h
  obtain ⟨hone, -, hlt⟩ := hs
  refine ⟨?_, fun ht => ?_, hlock ▸ hc ▸ hlt⟩
  · by_cases hn : (s.classAt k).lockedLineId = none
    · exact .inl (hlock.trans hn)
    · rw [if_neg hn] at hsel
      exact .inr (hsel.trans (hone.resolve_left hn))
  · rwa [if_pos (hlock.symm.trans ht)] at hsel

theorem classOk_of_same {s t : State} {k : IrqClass} (hc : t.cfg = s.cfg) (hk : t.classAt k = s.classAt k)
    (hw : ∀ w, Wins s k w → Wins t k w) (hs : ClassOk s k) : ClassOk t k := by
  obtain ⟨hone, hset, hlt⟩ := hs
  refine ⟨hk ▸ hone, fun ht => ?_, hk ▸ hc ▸ hlt⟩
  rw [hk] at ht ⊢
  exact hw _ (hset ht)

/-- What the invariant says of the Arbiter: the line table's size, both classes, the weights. -/
structure ArbOk (s : State) : Prop where
  length : s.lines.length = s.cfg.nLINES
  classes : ∀ k, ClassOk s k
  weights : FlatWeights s

theorem drive_weight (i : Nat) {l : ArbLine} (d : Sink × Nat) (h : l.nestWeight = 0#8) :
    (drive false i l d).nestWeight = 0#8 := by
  unfold drive
  split
  · exact h
  · split
    · rfl
    · exact h

theorem foldl_drive_weight (i : Nat) (ds : List (Sink × Nat)) {l : ArbLine} (h : l.nestWeight = 0#8) :
    (ds.foldl (drive false i) l).nestWeight = 0#8 :=
  List.foldlRecOn ds _ (motive := fun l : ArbLine => l.nestWeight = 0#8) h fun _ hl d _ => drive_weight i d hl

/-- Deliveries keep the Arbiter's invariant (R213). -/
theorem ArbOk.delivered {ds : List (Sink × Nat)} {s t : State} (h : ArbOk s) (hc : t.cfg = s.cfg)
    (hd : Delivered ds s t) : ArbOk t := by
  refine ⟨by rw [hd.length, hc, h.length], fun k => ?_, fun hn i hi => ?_⟩
  · have hk := hd.classes k
    cases ha : ds.any fun d => sinkIsArb d.1 with
    | true =>
      rw [ha, if_pos rfl] at hk
      exact classOk_of_rearbitrated hc hk.1 (h.classes k)
    | false =>
      rw [ha, if_neg (by simp)] at hk
      exact classOk_of_same hc hk.1
        (fun _ => wins_congr hc (fun i _ => hd.lineAt ha i) (by rw [hk.1])) (h.classes k)
  · rw [hc] at hn hi
    rw [hd.lines i (by rw [h.length]; exact hi), hn]
    exact foldl_drive_weight i ds (h.weights hn i hi)

/-- `ARB.SETLEVEL` keeps the Arbiter's invariant (R153). -/
theorem ArbOk.afterSetlevel {s : State} (h : ArbOk s) (id : Nat) (cls : IrqClass) (p n : Byte) (l : Bool) :
    ArbOk (setLevel id cls p n l s) := by
  refine ⟨by simp [h.length], fun k => ?_, fun hn i hi => ?_⟩
  · exact classOk_of_rearbitrated (setLevel_cfg ..) (setLevel_spec id cls p n l s k) (h.classes k)
  · rw [setLevel_cfg] at hn hi
    rw [setLevel_lineAt _ _ _ _ _ _ _ (by rw [h.length]; exact hi)]
    split
    · simp [newLine, hn]
    · exact h.weights hn i hi

/-- The Arbiter's invariant after an operation that writes one class record and no weight. -/
theorem ArbOk.of_classes {s t : State} (h : ArbOk s) (hc : t.cfg = s.cfg) (hlen : t.lines.length = s.lines.length)
    (hw : ∀ i, (t.lineAt i).nestWeight = (s.lineAt i).nestWeight) (hk : ∀ k, ClassOk t k) : ArbOk t :=
  ⟨by rw [hlen, hc, h.length], hk, fun hn i hi => by
    rw [hc] at hn hi
    rw [hw]
    exact h.weights hn i hi⟩

/-- The winner stays the winner when no line and no filter is written. -/
theorem wins_of_lines {s t : State} {k : IrqClass} {w : Option Nat} (hc : t.cfg = s.cfg) (hl : t.lines = s.lines)
    (hm : (t.classAt k).maskBelowPriority = (s.classAt k).maskBelowPriority) (h : Wins s k w) : Wins t k w :=
  wins_congr hc (fun i _ => by simp [State.lineAt, hl]) hm h

theorem state_eq_pending_iff {u : ArbClass} {i : Nat} :
    u.state = .pending i ↔ u.lockedLineId = none ∧ u.selectedLineId = some i := by
  unfold ArbClass.state
  split <;> simp_all

/-- `ARB.TAKE` keeps the Arbiter's invariant: the line it locks was the winner (R154). -/
theorem ArbOk.afterTake {s : State} (h : ArbOk s) (k : IrqClass) : ArbOk (takeLine k s) := by
  obtain ⟨i, hp, hk, -⟩ | ⟨-, hs⟩ := takeLine_spec k s
  · obtain ⟨hunlocked, hselected⟩ := state_eq_pending_iff.mp hp
    refine h.of_classes (takeLine_cfg ..) (by rw [takeLine_lines]) (by simp [State.lineAt, takeLine_lines])
      fun k' => ?_
    by_cases hkk : k' = k
    · subst hkk
      have hwin : Wins s k' (some i) := hselected ▸ (h.classes k').2.1 hunlocked
      rw [ClassOk, Settled, hk]
      refine ⟨.inr rfl, nofun, fun j hj => ?_⟩
      cases hj
      rw [takeLine_cfg]
      exact (hwin.2 (by simp)).1
    · have hsame := takeLine_classAt_ne (k := k) s hkk
      exact classOk_of_same (takeLine_cfg ..) hsame
        (fun _ => wins_of_lines (takeLine_cfg ..) (takeLine_lines k s) (by rw [hsame])) (h.classes k')
  · exact hs.symm ▸ h

/-- `ARB.ACK` keeps the Arbiter's invariant (R155). -/
theorem ArbOk.afterAck {s : State} (h : ArbOk s) (k : IrqClass) (i : Nat) : ArbOk (ackLine k i s) := by
  refine h.of_classes (ackLine_cfg ..) (by rw [ackLine_lines, consumeLine_length])
    (fun j => by rw [ackLine_lineAt, consumeLine_weight])
    fun k' => ?_
  by_cases hk : k' = k
  · subst hk
    obtain ⟨hlock, -, hwin⟩ := ackLine_spec k' i s
    exact ⟨.inl hlock, fun _ => hwin, by simp [hlock]⟩
  · exact classOk_of_same (ackLine_cfg ..) (ackLine_classAt_ne i s hk) (fun _ => ackLine_wins_ne i hk) (h.classes k')

/-- `ARB.SETMASK` keeps the Arbiter's invariant (R156). -/
theorem ArbOk.afterSetmask {s : State} (h : ArbOk s) (k : IrqClass) (m : Option Byte) :
    ArbOk (rearbitrate k (s.setClass k { s.classAt k with maskBelowPriority := m })) := by
  refine h.of_classes (by simp) (by simp) (by simp) fun k' => ?_
  by_cases hk : k' = k
  · subst hk
    have hre := rearbitrate_spec k' (s.setClass k' { s.classAt k' with maskBelowPriority := m })
    refine classOk_of_rearbitrated (s := s) (by simp) ?_ (h.classes k')
    simpa only [Rearbitrated, classAt_setClass_self] using hre
  · have hsame : (rearbitrate k (s.setClass k { s.classAt k with maskBelowPriority := m })).classAt k'
        = s.classAt k' := by rw [rearbitrate_classAt_ne _ hk, classAt_setClass_ne _ _ hk]
    exact classOk_of_same (by simp) hsame (fun _ => wins_of_lines (by simp) (by simp) (by rw [hsame])) (h.classes k')

/-! ### What a well-formed configuration says (R211) -/

theorem recordsPresent_of_configOk {cfg : Config} (h : configOk cfg = true) :
    cfg.sinkSRL.length = cfg.nSRL ∧ cfg.banks.length = cfg.nSRB ∧ cfg.exts.length = cfg.nSRBX
      ∧ cfg.timers.length = cfg.nVCT := by
  simp only [configOk, recordsPresent, Bool.and_eq_true, decide_eq_true_eq] at h
  tauto

/-- The parent of an extension exists, and its parent bit is an event of it. -/
theorem extConfig_of_configOk {cfg : Config} (h : configOk cfg = true) {x : Nat} (hx : x < cfg.nSRBX) :
    (extConfig cfg x).parent < cfg.nSRB ∧ (extConfig cfg x).parentEventMask
      &&& (bankConfig cfg (extConfig cfg x).parent).evMask = (extConfig cfg x).parentEventMask := by
  obtain ⟨-, -, hlen, -⟩ := recordsPresent_of_configOk h
  have hx' : x < cfg.exts.length := hlen ▸ hx
  have hok : extOk cfg (extConfig cfg x) = true := by
    simp only [configOk, Bool.and_eq_true, List.all_eq_true] at h
    obtain ⟨⟨⟨-, hext⟩, -⟩, -⟩ := h
    simpa [extConfig, hx'] using hext _ (List.getElem_mem hx')
  simp only [extOk, Bool.and_eq_true, decide_eq_true_eq, beq_iff_eq] at hok
  obtain ⟨⟨hp, -⟩, hm⟩ := hok
  exact ⟨hp, hm⟩

/-- A timer's record, if there is one, is good. -/
theorem timerOk_of_configOk {cfg : Config} (h : configOk cfg = true) {t : Nat} {tc : TimerConfig}
    (ht : cfg.timers[t]? = some tc) : timerOk cfg tc = true := by
  simp only [configOk, Bool.and_eq_true, List.all_eq_true] at h
  obtain ⟨⟨-, htimer⟩, -⟩ := h
  exact htimer tc (List.mem_of_getElem? ht)

/-- Every route names an existing unit; a missing one is no route. -/
theorem routeOk_of_configOk {cfg : Config} (h : configOk cfg = true) (t : Nat) (k : Callback) :
    routeOk cfg (routeOf cfg t k) = true := by
  cases htc : cfg.timers[t]? with
  | none => cases k <;> simp [routeOf, timerConfig, htc, routeOk]
  | some tc =>
    have hok := timerOk_of_configOk h htc
    simp only [timerOk, Bool.and_eq_true, List.all_eq_true] at hok
    obtain ⟨⟨-, hovf⟩, halarms⟩ := hok
    cases k with
    | overflow => simpa [routeOf, timerConfig, htc] using hovf
    | alarm i =>
      cases hr : tc.alarmRoutes[i]? with
      | none => simp [routeOf, timerConfig, htc, hr, routeOk]
      | some route => simpa [routeOf, timerConfig, htc, hr] using halarms route (List.mem_of_getElem? hr)

/-! ### The units' parts of the invariant (R25, R26, R35 (a), (b)) -/

/-- Every set bit is an event of the mask. -/
abbrev Within (v events : Word) : Prop := v &&& events = v

theorem within_and_self (v events : Word) : Within (v &&& events) events := by
  rw [Within, BitVec.and_assoc, BitVec.and_self]

theorem Within.or {v w events : Word} (hv : Within v events) (hw : Within w events) : Within (v ||| w) events := by
  rw [Within, BitVec.and_or_distrib_right, hv, hw]

theorem Within.and {v events : Word} (hv : Within v events) (w : Word) : Within (v &&& w) events := by
  rw [Within, BitVec.and_assoc, BitVec.and_comm w, ← BitVec.and_assoc, hv]

/-- What the invariant says of the RequestLines. -/
structure SrlOk (s : State) : Prop where
  length : s.srl.length = s.cfg.nSRL
  latches : LatchesFollow s

/-- What the invariant says of the banks. -/
structure SrbOk (s : State) : Prop where
  length : s.srb.length = s.cfg.nSRB
  latches : BankLatchesFollow s
  noStray : ∀ b < s.cfg.nSRB, Within (s.srbAt b).mask (bankConfig s.cfg b).evMask
    ∧ Within (s.srbAt b).rawStatus (bankConfig s.cfg b).evMask

/-- What the invariant says of the extensions. -/
structure SrbxOk (s : State) : Prop where
  length : s.srbx.length = s.cfg.nSRBX
  noStray : ∀ x < s.cfg.nSRBX, Within (s.srbxAt x).mask (extConfig s.cfg x).xevMask
    ∧ Within (s.srbxAt x).rawStatus (extConfig s.cfg x).xevMask

theorem SrlOk.congr {s t : State} (h : SrlOk s) (hc : t.cfg = s.cfg) (hu : t.srl = s.srl) : SrlOk t := by
  obtain ⟨hlen, hlat⟩ := h
  have hat : ∀ r, t.srlAt r = s.srlAt r := fun r => by simp [State.srlAt, hu]
  exact ⟨by rw [hu, hc, hlen], fun r hr => by rw [hat]; exact hlat r (hc ▸ hr)⟩

theorem SrbOk.congr {s t : State} (h : SrbOk s) (hc : t.cfg = s.cfg) (hu : t.srb = s.srb) : SrbOk t := by
  obtain ⟨hlen, hlat, hstray⟩ := h
  have hat : ∀ b, t.srbAt b = s.srbAt b := fun b => by simp [State.srbAt, hu]
  refine ⟨by rw [hu, hc, hlen], fun b hb => ?_, fun b hb => ?_⟩ <;> rw [hc] at hb ⊢ <;> rw [hat]
  · exact hlat b hb
  · exact hstray b hb

theorem SrbxOk.congr {s t : State} (h : SrbxOk s) (hc : t.cfg = s.cfg) (hu : t.srbx = s.srbx) : SrbxOk t := by
  obtain ⟨hlen, hstray⟩ := h
  have hat : ∀ x, t.srbxAt x = s.srbxAt x := fun x => by simp [State.srbxAt, hu]
  refine ⟨by rw [hu, hc, hlen], fun x hx => ?_⟩
  rw [hc] at hx ⊢
  rw [hat]
  exact hstray x hx

/-- The latch count of a bank is its line count. -/
theorem SrbOk.latchCount {s : State} (h : SrbOk s) {b : Nat} (hb : b < s.cfg.nSRB) :
    (s.srbAt b).deliveredPerLine.length = (bankConfig s.cfg b).nOut := by
  rw [h.latches b hb, List.length_map, List.length_range]

/-- A bank update keeps the banks' invariant (R125). -/
theorem SrbOk.bankWritten {s t : State} {b : Nat} {mask rawStatus : Word} (h : SrbOk s) (hc : t.cfg = s.cfg)
    (hw : BankWritten b mask rawStatus s t) (hm : Within mask (bankConfig s.cfg b).evMask)
    (hr : Within rawStatus (bankConfig s.cfg b).evMask) : SrbOk t := by
  obtain ⟨hself, hother, hlen, -⟩ := hw
  refine ⟨by rw [hlen, hc, h.length], fun b' hb' => ?_, fun b' hb' => ?_⟩ <;> rw [hc] at hb' ⊢
  · by_cases hbb : b' = b
    · subst hbb; rw [hself]
    · rw [hother b' hbb]; exact h.latches b' hb'
  · by_cases hbb : b' = b
    · subst hbb; rw [hself]; exact ⟨hm, hr⟩
    · rw [hother b' hbb]; exact h.noStray b' hb'

/-- The part of the invariant that deliveries and routes read and write: all but the ClockControl units, the timers and
the fault record. -/
structure UnitsOk (s : State) : Prop where
  config : configOk s.cfg = true
  srl : SrlOk s
  srb : SrbOk s
  srbx : SrbxOk s
  arb : ArbOk s

theorem UnitsOk.withRest {s : State} (h : UnitsOk s) (clc : List Clc) (vct : List Vct) (fault : Option FaultRecord)
    (now : Nat) (resp : Option DoubleWord) (inputs : List Input) :
    UnitsOk (s.withRest clc vct fault now resp inputs) :=
  ⟨h.config, h.srl.congr rfl rfl, h.srb.congr rfl rfl, h.srbx.congr rfl rfl,
    h.arb.of_classes rfl rfl (fun _ => rfl) h.arb.classes⟩

theorem UnitsOk.emit {s : State} (h : UnitsOk s) (e : Event) : UnitsOk (s.emit e) :=
  ⟨h.config, h.srl.congr rfl rfl, h.srb.congr rfl rfl, h.srbx.congr rfl rfl,
    h.arb.of_classes rfl rfl (fun _ => rfl) h.arb.classes⟩

/-- The units after an operation of the Arbiter alone. -/
theorem UnitsOk.of_arb {s t : State} (h : UnitsOk s) (hc : t.cfg = s.cfg) (hk : KeepsUnits s t) (ha : ArbOk t) :
    UnitsOk t := by
  obtain ⟨hsrl, hsrb, hsrbx⟩ := hk
  exact ⟨hc ▸ h.config, h.srl.congr hc hsrl, h.srb.congr hc hsrb, h.srbx.congr hc hsrbx, ha⟩

/-- The units after a RequestLine was written (R111). -/
theorem UnitsOk.lineWritten {s t : State} {r : Nat} {pending enabled : Bool} {priority : Byte} (h : UnitsOk s)
    (hw : LineWritten r pending enabled priority s t) : UnitsOk t := by
  obtain ⟨hself, hother, hlen, hd, hsrb, hsrbx, hc, -⟩ := hw
  refine ⟨hc ▸ h.config, ⟨by rw [hlen, hc, h.srl.length], fun r' hr' => ?_⟩, h.srb.congr hc hsrb, h.srbx.congr hc hsrbx,
    h.arb.delivered hc hd⟩
  by_cases hrr : r' = r
  · subst hrr; rw [hself]
  · rw [hother r' hrr]; exact h.srl.latches r' (hc ▸ hr')

/-- The banks and the Arbiter after a bank was written (R125). -/
theorem UnitsOk.parts_of_bankWritten {s t : State} {b : Nat} {mask rawStatus : Word} (h : UnitsOk s)
    (hw : BankWritten b mask rawStatus s t) (hc : t.cfg = s.cfg) (hm : Within mask (bankConfig s.cfg b).evMask)
    (hr : Within rawStatus (bankConfig s.cfg b).evMask) : SrbOk t ∧ ArbOk t := by
  have hb := h.srb.bankWritten hc hw hm hr
  obtain ⟨-, -, -, hd⟩ := hw
  exact ⟨hb, h.arb.delivered hc hd⟩

/-- The units after a bank was written (R125). -/
theorem UnitsOk.bankWritten {s t : State} {b : Nat} {mask rawStatus : Word} (h : UnitsOk s)
    (hw : BankWritten b mask rawStatus s t) (hc : t.cfg = s.cfg) (hsrl : t.srl = s.srl) (hsrbx : t.srbx = s.srbx)
    (hm : Within mask (bankConfig s.cfg b).evMask) (hr : Within rawStatus (bankConfig s.cfg b).evMask) : UnitsOk t := by
  obtain ⟨hsrb, harb⟩ := h.parts_of_bankWritten hw hc hm hr
  exact ⟨hc ▸ h.config, h.srl.congr hc hsrl, hsrb, h.srbx.congr hc hsrbx, harb⟩

/-- The banks and the Arbiter after an extension forwarded its aggregate's transition, if any (R135). -/
theorem UnitsOk.parts_of_extensionWritten {s t : State} {x : Nat} {u : Srbx} (h : UnitsOk s) (hx : x < s.cfg.nSRBX)
    (hw : ExtensionWritten x u s t) (hc : t.cfg = s.cfg) : SrbOk t ∧ ArbOk t := by
  obtain ⟨-, -, -, hp, -⟩ := hw
  obtain ⟨hparent, hbit⟩ := extConfig_of_configOk h.config hx
  obtain ⟨hm, hr⟩ := h.srb.noStray _ hparent
  split at hp
  · exact h.parts_of_bankWritten hp hc hm (hr.or hbit)
  · split at hp
    · exact h.parts_of_bankWritten hp hc hm (hr.and _)
    · obtain ⟨hsrb, hlines, hnormal, hfast, -⟩ := hp
      have hk : ∀ k, t.classAt k = s.classAt k := fun k => by cases k <;> simp [State.classAt, hnormal, hfast]
      exact ⟨h.srb.congr hc hsrb, h.arb.of_classes hc (by rw [hlines]) (by simp [State.lineAt, hlines]) fun k =>
        classOk_of_same hc (hk k) (fun _ => wins_of_lines hc hlines (by rw [hk])) (h.arb.classes k)⟩

/-- The units after an extension was written (R135). -/
theorem UnitsOk.extensionWritten {s t : State} {x : Nat} {u : Srbx} (h : UnitsOk s) (hx : x < s.cfg.nSRBX)
    (hw : ExtensionWritten x u s t) (hm : Within u.mask (extConfig s.cfg x).xevMask)
    (hr : Within u.rawStatus (extConfig s.cfg x).xevMask) : UnitsOk t := by
  have hp := hw
  obtain ⟨hself, hother, hlen, -, hsrl, hc, -⟩ := hw
  obtain ⟨hsrb, harb⟩ := h.parts_of_extensionWritten hx hp hc
  refine ⟨hc ▸ h.config, h.srl.congr hc hsrl, hsrb, ⟨by rw [hlen, hc, h.srbx.length], fun x' hx' => ?_⟩, harb⟩
  rw [hc] at hx' ⊢
  by_cases hxx : x' = x
  · subst hxx; rw [hself]; exact ⟨hm, hr⟩
  · rw [hother x' hxx]; exact h.srbx.noStray x' hx'

/-! ### The operations of the units keep their part of the invariant -/

section
variable {s : State} (h : UnitsOk s)
include h

theorem UnitsOk.afterSrlWrite {r : Nat} (hr : r < s.cfg.nSRL) (pending enabled : Bool) (priority : Byte) :
    UnitsOk (srlUpdate r (s.setSrl r
      { s.srlAt r with pending := pending, enabled := enabled, priority := priority })) :=
  h.lineWritten (srlUpdate_spec r pending enabled priority s (h.srl.length ▸ hr))

theorem UnitsOk.afterSrlSetPending {r : Nat} (hr : r < s.cfg.nSRL) (p : Bool) : UnitsOk (srlSetPending r p s) :=
  h.lineWritten (srlSetPending_spec r p s (h.srl.length ▸ hr))

theorem UnitsOk.afterSrbSetMaskBits {b : Nat} (hb : b < s.cfg.nSRB) (bits : Word) :
    UnitsOk (srbSetMaskBits b bits s) :=
  h.bankWritten (srbSetMaskBits_spec b bits s (h.srb.length ▸ hb) (h.srb.latchCount hb)) (by simp) (by simp) (by simp)
    (within_and_self ..) (h.srb.noStray b hb).2

theorem UnitsOk.afterSrbSetRawBits {b : Nat} (hb : b < s.cfg.nSRB) (bits : Word) :
    UnitsOk (srbSetRawBits b bits s) := by
  obtain ⟨hm, hr⟩ := h.srb.noStray b hb
  exact h.bankWritten (srbSetRawBits_spec b bits s (h.srb.length ▸ hb) (h.srb.latchCount hb)) (by simp) (by simp)
    (by simp) hm (hr.or (within_and_self ..))

theorem UnitsOk.afterSrbClearRawBits {b : Nat} (hb : b < s.cfg.nSRB) (bits : Word) :
    UnitsOk (srbClearRawBits b bits s) := by
  obtain ⟨hm, hr⟩ := h.srb.noStray b hb
  exact h.bankWritten (srbClearRawBits_spec b bits s (h.srb.length ▸ hb) (h.srb.latchCount hb)) (by simp) (by simp)
    (by simp) hm (hr.and _)

theorem UnitsOk.afterSrbxChange {x : Nat} (hx : x < s.cfg.nSRBX) {u : Srbx}
    (hm : Within u.mask (extConfig s.cfg x).xevMask) (hr : Within u.rawStatus (extConfig s.cfg x).xevMask) :
    UnitsOk (srbxChange x u s) := by
  obtain ⟨hparent, hbit⟩ := extConfig_of_configOk h.config hx
  exact h.extensionWritten hx (srbxChange_spec x u s (h.srbx.length ▸ hx) (h.srb.length ▸ hparent)
    (h.srb.latchCount hparent) hbit) hm hr

theorem UnitsOk.afterSrbxSetRawBits {x : Nat} (hx : x < s.cfg.nSRBX) (bits : Word) :
    UnitsOk (srbxSetRawBits x bits s) := by
  obtain ⟨hm, hr⟩ := h.srbx.noStray x hx
  exact h.afterSrbxChange hx hm (hr.or (within_and_self ..))

/-- A route keeps the units' invariant (R214). -/
theorem UnitsOk.afterRoute {route : Route} (hr : routeOk s.cfg route = true) : UnitsOk (performRoute route s) := by
  cases route with
  | none => exact h
  | srl r => exact h.afterSrlSetPending (of_decide_eq_true hr) true
  | srb b bits => exact h.afterSrbSetRawBits (of_decide_eq_true hr) bits
  | srbx x bits => exact h.afterSrbxSetRawBits (of_decide_eq_true hr) bits

theorem UnitsOk.afterFire (t : Nat) (k : Callback) : UnitsOk (fire t k s) :=
  (h.emit _).afterRoute (routeOk_of_configOk h.config t k)

end

theorem UnitsOk.afterFireAll {s : State} (h : UnitsOk s) (t : Nat) (ks : List Callback) : UnitsOk (fireAll t ks s) :=
  List.foldlRecOn ks _ h fun _ hu k _ => hu.afterFire t k

/-! ### The timers' part of the invariant (R30, R35 (f), (g)) -/

/-- What the invariant says of a timer, its deadline apart. -/
structure Vct.Sound (T : Vct) (now : Nat) : Prop where
  rebased : T.baseTimestamp ≤ now
  written : T.running = true → T.Written
  frequency : ∀ f ∈ T.frequencyHz, f < timerBound
  modulus : ∀ m ∈ T.overflowModulus, 0 < m ∧ m < timerBound
  thresholds : ∀ a ∈ T.alarms, ∀ x ∈ a.threshold, x < timerBound
  counter : T.counterBase ≤ T.overflowModulus.getD 0

theorem Vct.ok_iff {T : Vct} {now : Nat} : T.Ok now ↔ T.deadline = T.armAt now ∧ T.Sound now := by
  constructor
  · rintro ⟨hd, hb, hw, hf, hm, hx, hc⟩
    exact ⟨hd, hb, fun hr => Vct.written_iff.mp (hw hr), hf, hm, hx, hc⟩
  · rintro ⟨hd, hb, hw, hf, hm, hx, hc⟩
    exact ⟨hd, hb, fun hr => Vct.written_iff.mpr (hw hr), hf, hm, hx, hc⟩

/-- The timer after `SCHEDULE` (R178). -/
def Vct.armed (T : Vct) (now : Nat) : Vct := { T with deadline := T.armAt now }

theorem Vct.Sound.armed {T : Vct} {now : Nat} (h : T.Sound now) : (T.armed now).Ok now :=
  Vct.ok_iff.mpr ⟨rfl, h.rebased, h.written, h.frequency, h.modulus, h.thresholds, h.counter⟩

/-- A timer with other alarms, whose thresholds are among the old ones or written and in range. -/
theorem Vct.Sound.withAlarms {T : Vct} {now : Nat} (h : T.Sound now) {alarms : List Alarm}
    (ha : ∀ a ∈ alarms, (∃ a' ∈ T.alarms, a.threshold = a'.threshold) ∨ ∃ x < timerBound, a.threshold = some x) :
    Vct.Sound { T with alarms := alarms } now := by
  obtain ⟨hb, hw, hf, hm, hx, hc⟩ := h
  refine ⟨hb, fun hr => ?_, hf, hm, fun a hmem x hax => ?_, hc⟩
  · obtain ⟨hfreq, hmod, hth⟩ := hw hr
    refine ⟨hfreq, hmod, fun a hmem => ?_⟩
    obtain ⟨a', ha', he⟩ | ⟨x, -, he⟩ := ha a hmem
    · exact he ▸ hth a' ha'
    · simp [he]
  · obtain ⟨a', ha', he⟩ | ⟨y, hy, he⟩ := ha a hmem
    · exact hx a' ha' x (he ▸ hax)
    · obtain rfl : y = x := by simpa [he] using hax
      exact hy

/-- A timer rebased to a count within its modulus. -/
theorem Vct.Sound.rebasedTo {T : Vct} {now c : Nat} (h : T.Sound now) (hc : c ≤ T.overflowModulus.getD 0) :
    Vct.Sound { T with counterBase := c, baseTimestamp := now } now :=
  ⟨Nat.le_refl now, h.written, h.frequency, h.modulus, h.thresholds, hc⟩

theorem Vct.Sound.clearFired {T : Vct} {now : Nat} (h : T.Sound now) : T.clearFired.Sound now :=
  h.withAlarms fun a ha => by
    obtain ⟨a', ha', rfl⟩ := List.mem_map.mp ha
    exact .inl ⟨a', ha', rfl⟩

theorem afterPass_threshold (a : Alarm) (c : Nat) : (a.afterPass c).threshold = a.threshold := by
  unfold Alarm.afterPass
  split <;> rfl

theorem Vct.Sound.alarmsPassed {T : Vct} {now : Nat} (h : T.Sound now) (c : Nat) :
    Vct.Sound { T with alarms := T.alarms.map (·.afterPass c) } now :=
  h.withAlarms fun a ha => by
    obtain ⟨a', ha', rfl⟩ := List.mem_map.mp ha
    exact .inl ⟨a', ha', afterPass_threshold a' c⟩

/-- The deadline is the first instant from `now` with an event of the timer, and stays so until then (R178, R216). -/
theorem Vct.armAt_later {T : Vct} {now n : Nat} (h : T.Sound now) (hn : now ≤ n)
    (hd : ∀ d, T.armAt now = some d → n ≤ d) : T.armAt n = T.armAt now := by
  cases hr : T.rate with
  | none => rw [Vct.armAt_none hr, Vct.armAt_none hr]
  | some f =>
    obtain ⟨hrun, -, -⟩ := Vct.rate_eq_some.mp hr
    obtain ⟨-, hmod, -⟩ := h.written hrun
    obtain ⟨d, hd₁, -, hev, hfirst⟩ := Vct.armAt_spec hr hmod h.rebased
    obtain ⟨d', hd₂, hn', hev', hfirst'⟩ := Vct.armAt_spec hr hmod (Nat.le_trans h.rebased hn)
    have hle : d ≤ d' := Nat.not_lt.mp fun hlt => hfirst d' (Nat.le_trans hn hn') hlt hev'
    have hge : d' ≤ d := Nat.not_lt.mp fun hlt => hfirst' d (hd d hd₁) hlt hev
    rw [hd₁, hd₂, Nat.le_antisymm hle hge]

/-- A clock step that passes no deadline keeps a timer's invariant (R216). -/
theorem Vct.Ok.later {T : Vct} {now n : Nat} (h : T.Ok now) (hn : now ≤ n) (hd : ∀ d, T.deadline = some d → n ≤ d) :
    T.Ok n := by
  obtain ⟨harm, hs⟩ := Vct.ok_iff.mp h
  refine Vct.ok_iff.mpr ⟨?_, Nat.le_trans hs.rebased hn, hs.written, hs.frequency, hs.modulus, hs.thresholds,
    hs.counter⟩
  rw [Vct.armAt_later hs hn (harm ▸ hd), harm]

/-- A timer that counts and is not due has no event yet (R178, R217). -/
theorem Vct.Ok.not_eventAt {T : Vct} {now : Nat} (h : T.Ok now) (hd : T.deadline ≠ some now) (hc : T.Counting) :
    ¬ T.EventAt (T.count now) := by
  obtain ⟨harm, hs⟩ := Vct.ok_iff.mp h
  obtain ⟨f, hf⟩ := Option.ne_none_iff_exists'.mp (Vct.rate_ne_none_iff.mpr hc)
  obtain ⟨-, hmod, -⟩ := hs.written hc.1
  obtain ⟨d, hd', hle, -, hfirst⟩ := Vct.armAt_spec hf hmod hs.rebased
  have hne : now ≠ d := fun he => hd (by rw [harm, hd', he])
  exact hfirst now (Nat.le_refl now) (Nat.lt_of_le_of_ne hle hne)

theorem Vct.count_of_not_counting {T : Vct} {now : Nat} (h : ¬ T.Counting) : T.count now = T.counterBase :=
  Vct.count_of_none (not_not.mp (mt Vct.rate_ne_none_iff.mp h)) now

/-- The counter of a timer that is not due has not passed its modulus (R35 (e)). -/
theorem Vct.Ok.count_le {T : Vct} {now : Nat} (h : T.Ok now) (hd : T.deadline ≠ some now) :
    T.count now ≤ T.overflowModulus.getD 0 := by
  obtain ⟨-, hs⟩ := Vct.ok_iff.mp h
  by_cases hc : T.Counting
  · obtain ⟨-, hmod, -⟩ := hs.written hc.1
    obtain ⟨m, hm⟩ := Option.ne_none_iff_exists'.mp hmod
    have hev := h.not_eventAt hd hc
    have hlt : ¬ m ≤ T.count now := fun hle => hev (.inl ⟨m, hm, hle⟩)
    rw [hm]
    exact Nat.le_of_not_le hlt
  · rw [Vct.count_of_not_counting hc]
    exact hs.counter

/-! ### What a command makes of a timer's record (R180 to R187) -/

/-- The timer after a scheduling pass, before it is scheduled: a timer that does not count stays as it is (R187). -/
def Vct.passed (T : Vct) (now : Nat) : Vct := if T.rate = none then T else T.afterPass now

/-- `T.Changed t now i T'`: the record of timer `t` is `T'` after command `i` at `now`, but for its deadline. -/
inductive Vct.Changed (T : Vct) (t now : Nat) : Instr → Vct → Prop
  | start (hr : T.running = false) (hw : T.Written) :
    Changed T t now (.vctStart t) { T with baseTimestamp := now, running := true }
  | stop : Changed T t now (.vctStop t) { T.rebase now with running := false }
  | reset : Changed T t now (.vctReset t) { T.clearFired with counterBase := 0, baseTimestamp := now }
  | setfreq (hz : Nat) : Changed T t now (.vctSetfreq t hz) { T.rebase now with frequencyHz := some hz }
  | setovf (m : Nat) (hm : m ≠ 0) : Changed T t now (.vctSetovf t m) (T.clampTo m now)
  | setalarm (a n : Nat) : Changed T t now (.vctSetalarm t a n)
      { T with alarms := T.alarms.set a ⟨some n, decide (n ≤ T.count now)⟩ }
  | tick : Changed T t now (.vctTick t) (T.passed now)

theorem Vct.passed_alarms_length (T : Vct) (now : Nat) : (T.passed now).alarms.length = T.alarms.length := by
  unfold Vct.passed Vct.afterPass
  split
  · rfl
  · split <;> simp [Vct.clearFired]

theorem Vct.clampTo_alarms (T : Vct) (m now : Nat) : (T.clampTo m now).alarms = T.alarms := by
  unfold Vct.clampTo
  split <;> rfl

theorem Vct.Changed.alarms_length {T T' : Vct} {t now : Nat} {i : Instr} (h : T.Changed t now i T') :
    T'.alarms.length = T.alarms.length := by
  cases h with
  | start | stop | setfreq => rfl
  | reset => simp [Vct.clearFired]
  | setovf m => rw [Vct.clampTo_alarms]
  | setalarm => simp
  | tick => exact T.passed_alarms_length now

/-- A scheduling pass keeps a timer's invariant, also when it is due (R187). -/
theorem Vct.Sound.passed {T : Vct} {now : Nat} (h : T.Sound now) : (T.passed now).Sound now := by
  unfold Vct.passed Vct.afterPass
  split
  · exact h
  · split
    · exact (h.rebasedTo (Nat.zero_le _)).clearFired.alarmsPassed 0
    · exact h.alarmsPassed _

/-- `VCT.SETOVF` keeps a timer's invariant: a counter above the new modulus is clamped (R185). -/
theorem Vct.Sound.clampTo {T : Vct} {now m : Nat} (h : T.Sound now) (hm : m ≠ 0) (hlt : m < timerBound) :
    (T.clampTo m now).Sound now := by
  have hw : T.running = true → Vct.Written { T with overflowModulus := some m } := fun hr => by
    obtain ⟨hf, -, ha⟩ := h.written hr
    exact ⟨hf, by simp, ha⟩
  have hmod : ∀ m' ∈ some m, 0 < m' ∧ m' < timerBound := by
    rintro _ ⟨⟩
    exact ⟨Nat.pos_of_ne_zero hm, hlt⟩
  unfold Vct.clampTo
  split
  · exact ⟨Nat.le_refl now, hw, h.frequency, hmod, h.thresholds, Nat.le_refl m⟩
  · rename_i hle
    exact ⟨h.rebased, hw, h.frequency, hmod, h.thresholds,
      Nat.le_trans (T.counterBase_le_count now) (Nat.not_lt.mp hle)⟩

/-- Every command keeps a timer's invariant, when the timer is not due and the operand is in range. -/
theorem Vct.Changed.sound {T T' : Vct} {t now : Nat} {i : Instr} (h : T.Changed t now i T') (hok : T.Ok now)
    (hd : T.deadline ≠ some now) (hop : ∀ n ∈ timerOperand i, n < timerBound) : T'.Sound now := by
  have hle := hok.count_le hd
  obtain ⟨-, hs⟩ := Vct.ok_iff.mp hok
  cases h with
  | start hr hw => exact ⟨Nat.le_refl now, fun _ => hw, hs.frequency, hs.modulus, hs.thresholds, hs.counter⟩
  | stop => exact ⟨Nat.le_refl now, nofun, hs.frequency, hs.modulus, hs.thresholds, hle⟩
  | reset => exact hs.clearFired.rebasedTo (Nat.zero_le _)
  | setfreq hz =>
    refine ⟨Nat.le_refl now, fun hr => ?_, ?_, hs.modulus, hs.thresholds, hle⟩
    · obtain ⟨-, hm, ha⟩ := hs.written hr
      exact ⟨by simp, hm, ha⟩
    · rintro _ ⟨⟩
      exact hop hz rfl
  | setovf m hm => exact hs.clampTo hm (hop m rfl)
  | setalarm a n =>
    refine hs.withAlarms fun b hb => ?_
    obtain hmem | rfl := List.mem_or_eq_of_mem_set hb
    · exact .inl ⟨b, hmem, rfl⟩
    · exact .inr ⟨n, hop n rfl, rfl⟩
  | tick => exact hs.passed

/-! ### The invariant by its parts -/

/-- What the invariant says of the timers. -/
structure TimersOk (s : State) : Prop where
  length : s.vct.length = s.cfg.nVCT
  alarms : ∀ t < s.cfg.nVCT, (s.vctAt t).alarms.length = alarmCount s.cfg t
  ok : ∀ t < s.cfg.nVCT, (s.vctAt t).Ok s.now

theorem inv_iff {s : State} :
    Inv s ↔ UnitsOk s ∧ s.clc.length = s.cfg.nCLC ∧ TimersOk s ∧ ∀ r ∈ s.fault, r.code ≠ 1 := by
  constructor
  · intro h
    obtain ⟨hclc, hsrl, hsrb, hsrbx, hlines, hvct, -, halarms⟩ := h.shape
    obtain ⟨hstray, hstrayx⟩ := h.noStray
    have hclasses : ∀ k, ClassOk s k
      | .normal => h.normalClass
      | .fast => h.fastClass
    exact ⟨⟨h.config, ⟨hsrl, h.latches⟩, ⟨hsrb, h.bankLatches, hstray⟩, ⟨hsrbx, hstrayx⟩,
      ⟨hlines, hclasses, h.flatWeights⟩⟩, hclc, ⟨hvct, halarms, h.timers⟩, h.noConfigFault⟩
  · rintro ⟨⟨hcfg, hsrl, hsrb, hsrbx, harb⟩, hclc, hvct, hfault⟩
    exact ⟨hcfg, ⟨hclc, hsrl.length, hsrb.length, hsrbx.length, harb.length, hvct.length,
      fun b hb => hsrb.latchCount hb, hvct.alarms⟩, hsrl.latches, hsrb.latches, ⟨hsrb.noStray, hsrbx.noStray⟩,
      harb.classes .normal, harb.classes .fast, harb.weights, hvct.ok, hfault⟩

section
variable {s : State} (h : Inv s)
include h

theorem Inv.units : UnitsOk s := (inv_iff.mp h).1

theorem Inv.timersOk : TimersOk s :=
  have ⟨_, _, ht, _⟩ := inv_iff.mp h
  ht

theorem Inv.vct_length {t : Nat} (ht : t < s.cfg.nVCT) : t < s.vct.length := h.timersOk.length ▸ ht

/-- The invariant does not read the response word. -/
theorem Inv.setResp (v : Option DoubleWord) : Inv (s.setResp v) :=
  have ⟨hu, hclc, ht, hf⟩ := inv_iff.mp h
  inv_iff.mpr ⟨hu.withRest .., hclc, ⟨ht.length, ht.alarms, ht.ok⟩, hf⟩

/-- The invariant does not read the environment's moves. -/
theorem Inv.setInputs (is : List Input) : Inv (s.setInputs is) :=
  have ⟨hu, hclc, ht, hf⟩ := inv_iff.mp h
  inv_iff.mpr ⟨hu.withRest .., hclc, ⟨ht.length, ht.alarms, ht.ok⟩, hf⟩

/-- A faulting command keeps the invariant: no command reports an ill-formed configuration (R231). -/
theorem Inv.faulted {r : FaultRecord} (hr : r.code ≠ 1) : Inv (s.faulted r) := by
  obtain ⟨hu, hclc, ht, hf⟩ := inv_iff.mp h
  refine inv_iff.mpr ⟨hu.withRest .., hclc, ⟨ht.length, ht.alarms, ht.ok⟩, fun r' hr' => ?_⟩
  cases hs : s.fault with
  | none => simp only [State.faulted, hs, Option.getD_none, Option.mem_some_iff] at hr'; exact hr' ▸ hr
  | some r'' =>
    simp only [State.faulted, hs, Option.getD_some, Option.mem_some_iff] at hr'
    exact hf r' (hr' ▸ hs)

theorem Inv.setClc (c : Nat) (u : Clc) : Inv (s.setClc c u) :=
  have ⟨hu, hclc, ht, hf⟩ := inv_iff.mp h
  inv_iff.mpr ⟨hu.withRest .., (List.length_set ..).trans hclc, ⟨ht.length, ht.alarms, ht.ok⟩, hf⟩

/-- An operation of the units keeps the invariant if it keeps theirs. -/
theorem Inv.of_units {u : State} (hk : KeepsRest s u) (hu : UnitsOk u) : Inv u := by
  obtain ⟨-, hclc, ht, hf⟩ := inv_iff.mp h
  obtain ⟨hc, hclc', hvct, hfault, hnow, -⟩ := hk
  have hat : ∀ t, u.vctAt t = s.vctAt t := fun t => by simp [State.vctAt, hvct]
  refine inv_iff.mpr ⟨hu, by rw [hclc', hc, hclc], ⟨by rw [hvct, hc, ht.length], fun t hlt => ?_, fun t hlt => ?_⟩,
    hfault ▸ hf⟩ <;> rw [hc] at hlt <;> rw [hat]
  · rw [hc]; exact ht.alarms t hlt
  · rw [hnow]; exact ht.ok t hlt

/-- Replacing one timer's record keeps the invariant if the record meets it. -/
theorem Inv.setVct {t : Nat} {T : Vct} (hlen : T.alarms.length = (s.vctAt t).alarms.length) (hT : T.Ok s.now) :
    Inv (s.setVct t T) := by
  obtain ⟨hu, hclc, ht, hf⟩ := inv_iff.mp h
  refine inv_iff.mpr ⟨hu.withRest .., hclc, ⟨(List.length_set ..).trans ht.length, fun n hn => ?_, fun n hn => ?_⟩, hf⟩
    <;> by_cases hnt : n = t
  · subst hnt
    rw [vctAt_setVct_self _ _ (h.vct_length hn), hlen]
    exact ht.alarms n hn
  · rw [vctAt_setVct_ne _ _ hnt]; exact ht.alarms n hn
  · subst hnt
    rw [vctAt_setVct_self _ _ (h.vct_length hn)]
    exact hT
  · rw [vctAt_setVct_ne _ _ hnt]; exact ht.ok n hn

theorem vctAt_mem_of_inv {t : Nat} (ht : t < s.cfg.nVCT) : s.vctAt t ∈ s.vct := by
  simp [State.vctAt, h.vct_length ht]

/-- A clock step keeps the invariant (R216). -/
theorem Inv.setNow {n : Nat} (hn : s.now ≤ n) (hd : ∀ T ∈ s.vct, ∀ d, T.deadline = some d → n ≤ d) :
    Inv (s.setNow n) := by
  obtain ⟨hu, hclc, ht, hf⟩ := inv_iff.mp h
  exact inv_iff.mpr ⟨hu.withRest .., hclc,
    ⟨ht.length, ht.alarms, fun t hlt => (ht.ok t hlt).later hn (hd _ (vctAt_mem_of_inv h hlt))⟩, hf⟩

theorem Inv.fireAll (t : Nat) (ks : List Callback) : Inv (fireAll t ks s) :=
  h.of_units (by simp [KeepsRest]) (h.units.afterFireAll t ks)

end

/-! ### What a command does -/

/-- What a command can do in a state: fault, with another code than `CFG`; change units and Arbiter within their
invariant; write a ClockControl unit; or replace one timer's record, after the callbacks `ks` of a pass. -/
inductive CommandEffect (s : State) (i : Instr) : Result → Prop
  | faults (r : FaultRecord) (hr : r.code ≠ 1) : CommandEffect s i (.next (s.faulted r))
  | units (v : DoubleWord) (u : State) (hk : KeepsRest s u) (hu : UnitsOk u) : CommandEffect s i (done v u)
  | clc (v : DoubleWord) (c : Nat) (x : Clc) : CommandEffect s i (done v (s.setClc c x))
  | timer (v : DoubleWord) (t : Nat) (ks : List Callback) (T : Vct) (ht : t < s.cfg.nVCT)
    (hT : (s.vctAt t).Changed t s.now i T) :
    CommandEffect s i (done v ((fireAll t ks s).setVct t (T.armed s.now)))

theorem KeepsRest.refl (s : State) : KeepsRest s s := ⟨rfl, rfl, rfl, rfl, rfl, rfl⟩

theorem fireAll_vctAt (t : Nat) (ks : List Callback) (s : State) (n : Nat) :
    (fireAll t ks s).vctAt n = s.vctAt n := by simp [State.vctAt]

theorem raise_effect {s : State} {i : Instr} {r : FaultRecord} (hr : r.code ≠ 1) :
    CommandEffect s i (.next (raise r s)) := raise_eq_faulted r s ▸ .faults r hr

theorem withUnit_effect {s : State} {i : Instr} {space : IndexSpace} {n : Nat} {body : Result}
    (h : n < unitCount s.cfg space → CommandEffect s i body) : CommandEffect s i (withUnit space n s body) := by
  unfold withUnit
  split
  · exact raise_effect (by simp [FaultRecord.code])
  · exact h (by omega)

/-- `SCHEDULE` after a write of the timer's record arms the written record. -/
theorem schedule_setVct {s : State} {t : Nat} (ht : t < s.vct.length) (T : Vct) :
    schedule t (s.setVct t T) = s.setVct t (T.armed s.now) := by
  rw [schedule, vctAt_setVct_self _ _ ht, setVct_setVct]; rfl

/-- A scheduling pass performs callbacks and replaces the timer's record (R187). -/
theorem tickPass_eq {s : State} (h : Inv s) {t : Nat} (ht : t < s.cfg.nVCT) :
    ∃ ks, tickPass t s = (fireAll t ks s).setVct t (((s.vctAt t).passed s.now).armed s.now) := by
  cases hr : (s.vctAt t).rate with
  | none => exact ⟨[], by rw [tickPass_none t s hr, Vct.passed, if_pos hr, Vct.armed, Vct.armAt_none hr]; rfl⟩
  | some f =>
    have hpass := tickPass_spec t s f hr (h.vct_length ht) (h.timersOk.alarms t ht)
    exact ⟨_, by rw [hpass, Vct.passed, if_neg (by simp [hr])]; rfl⟩

section
variable {s : State} (h : Inv s)
include h

/-- A command that writes the record of a timer and schedules it. -/
theorem schedule_effect {i : Instr} {t : Nat} {T : Vct} (ht : t < s.cfg.nVCT) (hT : (s.vctAt t).Changed t s.now i T) :
    CommandEffect s i (done 0#64 (schedule t (s.setVct t T))) := by
  rw [schedule_setVct (h.vct_length ht)]
  exact .timer _ t [] T ht hT

theorem execVctStart_effect (t : Nat) : CommandEffect s (.vctStart t) (execVctStart t s) := by
  refine withUnit_effect fun ht => ?_
  split
  · exact .units _ s (.refl s) h.units
  · rename_i hr
    split
    · rename_i hw
      exact schedule_effect h ht (.start (by simpa using hr) (Vct.written_iff.mp hw))
    · exact raise_effect (by simp [FaultRecord.code])

theorem execVctStop_effect (t : Nat) : CommandEffect s (.vctStop t) (execVctStop t s) := by
  refine withUnit_effect fun ht => ?_
  split
  · exact .timer _ t [] _ ht .stop
  · exact .units _ s (.refl s) h.units

theorem execVctSetovf_effect (t m : Nat) : CommandEffect s (.vctSetovf t m) (execVctSetovf t m s) := by
  refine withUnit_effect fun ht => ?_
  split
  · exact raise_effect (by simp [FaultRecord.code])
  · rename_i hm
    exact schedule_effect h ht (.setovf m hm)

theorem execVctSetalarm_effect (t a n : Nat) : CommandEffect s (.vctSetalarm t a n) (execVctSetalarm t a n s) := by
  refine withUnit_effect fun ht => ?_
  split
  · exact raise_effect (by simp [FaultRecord.code])
  · exact schedule_effect h ht (.setalarm a n)

theorem execVctTick_effect (t : Nat) : CommandEffect s (.vctTick t) (execVctTick t s) := by
  refine withUnit_effect fun ht => ?_
  obtain ⟨ks, he⟩ := tickPass_eq h ht
  rw [he]
  exact .timer _ t ks _ ht .tick

theorem execArbAck_effect (k : IrqClass) : CommandEffect s (.arbAck k) (execArbAck k s) := by
  unfold execArbAck
  split
  · exact raise_effect (by simp [FaultRecord.code])
  · exact .units _ _ (by simp [KeepsRest]) (h.units.of_arb (by simp) (by simp [KeepsUnits]) (h.units.arb.afterAck k _))

theorem execSrbxClearraw_effect (x : Nat) (bits : Word) :
    CommandEffect s (.srbxClearraw x bits) (execSrbxClearraw x bits s) := by
  refine withUnit_effect fun hx => ?_
  obtain ⟨hm, hr⟩ := h.units.srbx.noStray x hx
  exact .units _ _ (by simp [KeepsRest]) (h.units.afterSrbxChange hx hm (hr.and _))

theorem execSrbxSetmask_effect (x : Nat) (bits : Word) :
    CommandEffect s (.srbxSetmask x bits) (execSrbxSetmask x bits s) := by
  refine withUnit_effect fun hx => ?_
  exact .units _ _ (by simp [KeepsRest])
    (h.units.afterSrbxChange hx (within_and_self ..) (h.units.srbx.noStray x hx).2)

/-- Everything a command can do from a state with the invariant. -/
theorem exec_effect (i : Instr) : CommandEffect s i (exec i s) := by
  have hu := h.units
  cases i with
  | clcGet | clcIsen | clcGetpre | srlGet | srbGetmask | srbGetraw | srbGetmis | srbxGetmask | srbxGetraw | srbxGetmis
  | vctGetcnt | vctNext => exact withUnit_effect fun _ => .units _ s (.refl s) hu
  | clcInit | clcSet => exact withUnit_effect fun _ => .clc _ _ _
  | srlSet => exact withUnit_effect fun hr => .units _ _ (by simp [KeepsRest]) (hu.afterSrlWrite hr _ _ _)
  | srlAssert | srlClear =>
    exact withUnit_effect fun hr => .units _ _ (by simp [KeepsRest]) (hu.afterSrlSetPending hr _)
  | srbSetmask => exact withUnit_effect fun hb => .units _ _ (by simp [KeepsRest]) (hu.afterSrbSetMaskBits hb _)
  | srbSetraw => exact withUnit_effect fun hb => .units _ _ (by simp [KeepsRest]) (hu.afterSrbSetRawBits hb _)
  | srbClearraw => exact withUnit_effect fun hb => .units _ _ (by simp [KeepsRest]) (hu.afterSrbClearRawBits hb _)
  | srbxSetmask x bits => exact execSrbxSetmask_effect h x bits
  | srbxSetraw => exact withUnit_effect fun hx => .units _ _ (by simp [KeepsRest]) (hu.afterSrbxSetRawBits hx _)
  | srbxClearraw x bits => exact execSrbxClearraw_effect h x bits
  | arbSetlevel =>
    exact withUnit_effect fun _ => .units _ _ (by simp [KeepsRest])
      (hu.of_arb (by simp) (by simp [KeepsUnits]) (hu.arb.afterSetlevel ..))
  | arbTake k =>
    exact .units _ _ (by simp [KeepsRest]) (hu.of_arb (by simp) (by simp [KeepsUnits]) (hu.arb.afterTake k))
  | arbAck k => exact execArbAck_effect h k
  | arbSetmask k =>
    exact .units _ _ (by simp [KeepsRest]) (hu.of_arb (by simp) (by simp [KeepsUnits]) (hu.arb.afterSetmask k _))
  | vctStart t => exact execVctStart_effect h t
  | vctStop t => exact execVctStop_effect h t
  | vctReset => exact withUnit_effect fun ht => schedule_effect h ht .reset
  | vctSetfreq t hz => exact withUnit_effect fun ht => schedule_effect h ht (.setfreq hz)
  | vctSetovf t m => exact execVctSetovf_effect h t m
  | vctSetalarm t a n => exact execVctSetalarm_effect h t a n
  | vctTick t => exact execVctTick_effect h t

/-- The invariant after the callbacks and the new record of a timer. -/
theorem Inv.timerChanged {t : Nat} {T : Vct} (ks : List Callback)
    (hlen : T.alarms.length = (s.vctAt t).alarms.length) (hT : T.Sound s.now) :
    Inv ((Machine.fireAll t ks s).setVct t (T.armed s.now)) := by
  refine (h.fireAll t ks).setVct ?_ (by simpa using hT.armed)
  rw [fireAll_vctAt]
  exact hlen

/-- A command keeps the invariant when no timer is due and its operand is in range. -/
theorem CommandEffect.inv {i : Instr} {u : State} (he : CommandEffect s i (.next u))
    (hd : ∀ T ∈ s.vct, T.deadline ≠ some s.now) (hop : ∀ n ∈ timerOperand i, n < timerBound) : Inv u := by
  cases he with
  | faults r hr => exact h.faulted hr
  | units v u hk hu => exact (h.of_units hk hu).setResp _
  | clc v c x => exact (h.setClc c x).setResp _
  | timer v t ks T ht hT =>
    have hok := h.timersOk.ok t ht
    exact (h.timerChanged ks hT.alarms_length (hT.sound hok (hd _ (vctAt_mem_of_inv h ht)) hop)).setResp _

/-- A scheduling pass keeps the invariant. -/
theorem Inv.tickPass {t : Nat} (ht : t < s.cfg.nVCT) : Inv (tickPass t s) := by
  obtain ⟨ks, he⟩ := tickPass_eq h ht
  obtain ⟨-, hs⟩ := Vct.ok_iff.mp (h.timersOk.ok t ht)
  rw [he]
  exact h.timerChanged ks (Vct.passed_alarms_length ..) hs.passed

end

/-- Settles O51: each kind of step (`step_cases`) keeps the invariant; a command by `exec_effect`. -/
theorem invariantKeptByStep : Obligations.InvariantKeptByStep := by
  intro s t h hstep
  obtain ⟨-, -, m, rest, -, ⟨cmd, data, -, hdue, hcmd⟩ | ⟨d, -, hd, rfl⟩ | ⟨n, -, hn, rfl⟩⟩ := step_cases hstep
  · obtain ⟨i, hdec, hx⟩ | ⟨e, -, rfl⟩ := hcmd
    · have heff := exec_effect (h.setInputs rest) i
      rw [hx] at heff
      exact heff.inv (h.setInputs rest) (anyDue_eq_false_iff.mp hdue) (decode_timerOperand_lt hdec)
    · exact (h.setInputs rest).faulted (by simp [FaultRecord.code])
  · exact (h.setInputs rest).setNow (Nat.le_add_right ..) (advanceEnabled_iff.mp hd).2
  · exact (h.setInputs rest).tickPass (h.timersOk.length ▸ (isDue_iff.mp hn).1)

/-! ### The classes do not interact (R158) -/

theorem arbClass_eq {u v : ArbClass} (hl : u.lockedLineId = v.lockedLineId) (hs : u.selectedLineId = v.selectedLineId)
    (hm : u.maskBelowPriority = v.maskBelowPriority) : u = v := by
  cases u; cases v; simp_all

/-- A line of class `k`, no asserted line of the other class before, drives class `k` alone (R158): the other class
selects the same winner again. -/
theorem setLevel_classAt_ne {s : State} {k k' : IrqClass} {id : Nat} (hk : k' ≠ k) (hlt : id < s.cfg.nLINES)
    (hlen : s.lines.length = s.cfg.nLINES) (hset : Settled s k')
    (hline : (s.lineAt id).asserted = false ∨ ((s.lineAt id).isFastClass = true ↔ k = .fast)) (p w : Byte) (l : Bool) :
    (setLevel id k p w l s).classAt k' = s.classAt k' := by
  obtain ⟨hlock, hsel⟩ := setLevel_spec id k p w l s k'
  have hat : ∀ i < s.cfg.nLINES, (setLevel id k p w l s).lineAt i
      = if id = i then newLine s.cfg.nestEnabled k p w l else s.lineAt i :=
    fun i hi => setLevel_lineAt id k p w l s i (hlen ▸ hi)
  refine arbClass_eq hlock ?_ (setLevel_mask ..)
  split at hsel
  · rename_i hunlocked
    have hbefore : competes s k' id = false :=
      hline.elim competes_of_not_asserted (competes_of_class_ne hk)
    have hafter : competes (setLevel id k p w l s) k' id = false :=
      competes_of_class_ne hk (by rw [hat id hlt, if_pos rfl]; simp [newLine])
    have hkept := wins_of_line_apart (setLevel_cfg ..) (setLevel_mask ..)
      (fun i hi hne => (hat i hi).trans (if_neg (Ne.symm hne))) hbefore hafter (hset hunlocked)
    exact wins_unique hsel hkept
  · exact hsel

theorem faulted_classAt (s : State) (r : FaultRecord) (k : IrqClass) : (s.faulted r).classAt k = s.classAt k := rfl

/-- Settles O37: three operations write the record of their own class only; for `ARB.SETLEVEL` it is
`setLevel_classAt_ne`. -/
theorem classesDoNotInteract : Obligations.ClassesDoNotInteract := by
  intro s t k k' hk h
  suffices hsame : t.classAt k' = s.classAt k' from ⟨hsame, out_congr hsame⟩
  obtain htake | hack | ⟨e, n, hmask⟩ | ⟨id, p, w, l, hset, hlen, hsettled, hline⟩ := h
  · cases htake
    exact (classAt_setResp ..).trans (takeLine_classAt_ne s hk)
  · simp only [exec, execArbAck, raise_eq_faulted] at hack
    split at hack
    · cases hack
      exact faulted_classAt ..
    · cases hack
      exact (classAt_setResp ..).trans (ackLine_classAt_ne _ s hk)
  · cases hmask
    refine (classAt_setResp ..).trans ?_
    rw [rearbitrate_classAt_ne _ hk, classAt_setClass_ne _ _ hk]
  · by_cases hid : s.cfg.nLINES ≤ id
    · cases (withUnit_of_le (space := .arb) hid).symm.trans hset
      exact faulted_classAt ..
    · have hlt : id < s.cfg.nLINES := Nat.lt_of_not_le hid
      cases (withUnit_of_lt (space := .arb) hlt).symm.trans hset
      exact (classAt_setResp ..).trans (setLevel_classAt_ne hk hlt hlen hsettled hline p w l)

/-! ### The counter and the modulus (R35 (e), log 19) -/

/-- Settles O54: a timer that is not due has not passed its modulus (`Vct.Ok.count_le`), and one that counts has not
reached an event (`Vct.Ok.not_eventAt`). -/
theorem counterBelowModulusWhenNothingDue : Obligations.CounterBelowModulusWhenNothingDue := by
  intro s h hdue t ht hrun
  have hok := h.timersOk.ok t ht
  have hd := hdue _ (vctAt_mem_of_inv h ht)
  obtain ⟨-, hs⟩ := Vct.ok_iff.mp hok
  obtain ⟨-, hmod, hth⟩ := hs.written hrun
  obtain ⟨m, hm⟩ := Option.ne_none_iff_exists'.mp hmod
  rw [← Vct.count_eq_counterAt]
  refine ⟨m, hm, by simpa [hm] using hok.count_le hd, fun hc => ⟨?_, fun a ha hf => ?_⟩⟩
  · exact Nat.lt_of_not_le fun hle => hok.not_eventAt hd hc (.inl ⟨m, hm, hle⟩)
  · obtain ⟨x, hx⟩ := Option.ne_none_iff_exists'.mp (hth a ha)
    exact ⟨x, hx, Nat.lt_of_not_le fun hle => hok.not_eventAt hd hc (.inr ⟨a, ha, hf, x, hx, hle⟩)⟩

/-- The schedule does not matter to whether a timer rests at its modulus. -/
theorem Vct.armed_restsAtModulus {T : Vct} {now : Nat} : (T.armed now).RestsAtModulus ↔ T.RestsAtModulus := Iff.rfl

/-- A scheduling pass brings no timer to rest at its modulus: a timer that counts goes on counting. -/
theorem Vct.restsAtModulus_of_passed {T : Vct} {now : Nat} (h : (T.passed now).RestsAtModulus) : T.RestsAtModulus := by
  unfold Vct.passed at h
  split at h
  · exact h
  · rename_i hr
    obtain ⟨-, hstill, -⟩ := h
    have hc := Vct.rate_ne_none_iff.mp hr
    refine absurd ?_ hstill
    unfold Vct.afterPass
    split <;> exact hc

/-- The commands that bring a timer to rest at its modulus (log 19): `VCT.SETOVF` with a modulus at or below the counter,
`VCT.START` of a timer whose counter is its modulus. -/
theorem Vct.Changed.restsAtModulus {T T' : Vct} {t now : Nat} {i : Instr} (h : T.Changed t now i T') (hok : T.Ok now)
    (hd : T.deadline ≠ some now) (hrest : T'.RestsAtModulus) :
    T.RestsAtModulus ∨ (∃ m, i = .vctSetovf t m ∧ m ≤ T.count now)
      ∨ (i = .vctStart t ∧ T.overflowModulus = some T.counterBase) := by
  obtain ⟨-, hs⟩ := Vct.ok_iff.mp hok
  obtain ⟨hrun, hstill, m, hm, hle⟩ := hrest
  cases h with
  | start =>
    have hge : T.counterBase ≤ m := by simpa [show T.overflowModulus = some m from hm] using hs.counter
    exact .inr (.inr ⟨rfl, (show T.overflowModulus = some m from hm).trans (congrArg some (Nat.le_antisymm hle hge))⟩)
  | stop => cases hrun
  | reset =>
    obtain ⟨hpos, -⟩ := hs.modulus m hm
    exact absurd hpos (Nat.not_lt.mpr hle)
  | setfreq hz =>
    refine .inl ⟨hrun, fun hc => ?_, m, hm, ?_⟩
    · exact hok.not_eventAt hd hc (.inl ⟨m, hm, hle⟩)
    · by_cases hc : T.Counting
      · exact absurd (.inl ⟨m, hm, hle⟩) (hok.not_eventAt hd hc)
      · exact Vct.count_of_not_counting (now := now) hc ▸ hle
  | setovf n hn =>
    refine .inr (.inl ⟨n, rfl, ?_⟩)
    unfold Vct.clampTo at hm hle
    split at hle
    · rename_i hlt; exact Nat.le_of_lt hlt
    · rename_i hlt
      rw [if_neg hlt] at hm
      cases hm
      exact Nat.le_trans hle (T.counterBase_le_count now)
  | setalarm a n => exact .inl ⟨hrun, hstill, m, hm, hle⟩
  | tick => exact .inl (Vct.restsAtModulus_of_passed ⟨hrun, hstill, m, hm, hle⟩)

theorem respond_vctAt (v : DoubleWord) (s : State) (t : Nat) : (respond v s).vctAt t = s.vctAt t := rfl

/-- A timer's record after a command: as before, or changed by it and scheduled. -/
theorem CommandEffect.vctAt {s u : State} {i : Instr} (h : Inv s) (he : CommandEffect s i (.next u)) {t : Nat}
    (ht : t < s.cfg.nVCT) :
    u.vctAt t = s.vctAt t ∨ ∃ T, (s.vctAt t).Changed t s.now i T ∧ u.vctAt t = T.armed s.now := by
  cases he with
  | faults r => exact .inl rfl
  | units v w hk =>
    obtain ⟨-, -, hvct, -⟩ := hk
    exact .inl (by rw [respond_vctAt, State.vctAt, hvct]; rfl)
  | clc v c x => exact .inl rfl
  | timer v t' ks T ht' hT =>
    rw [respond_vctAt]
    by_cases htt : t = t'
    · subst htt
      exact .inr ⟨T, hT, vctAt_setVct_self _ _ (by simpa using h.vct_length ht)⟩
    · exact .inl (by rw [vctAt_setVct_ne _ _ htt, fireAll_vctAt])

/-- A command that brings a timer to rest at its modulus is one of the two of log 19. -/
theorem CommandEffect.restsAtModulus {s u : State} {i : Instr} (h : Inv s) (he : CommandEffect s i (.next u)) {t : Nat}
    (ht : t < s.cfg.nVCT) (hdue : ∀ T ∈ s.vct, T.deadline ≠ some s.now) (hrest : (u.vctAt t).RestsAtModulus) :
    (s.vctAt t).RestsAtModulus ∨ (∃ m, i = .vctSetovf t m ∧ m ≤ (s.vctAt t).count s.now)
      ∨ (i = .vctStart t ∧ (s.vctAt t).overflowModulus = some (s.vctAt t).counterBase) := by
  obtain hsame | ⟨T, hT, heq⟩ := he.vctAt h ht
  · exact .inl (hsame ▸ hrest)
  · rw [heq] at hrest
    exact hT.restsAtModulus (h.timersOk.ok t ht) (hdue _ (vctAt_mem_of_inv h ht)) hrest

/-- A scheduling pass brings no timer to rest at its modulus. -/
theorem tickPass_restsAtModulus {s : State} (h : Inv s) {n t : Nat} (hn : n < s.cfg.nVCT) (ht : t < s.cfg.nVCT)
    (hrest : ((tickPass n s).vctAt t).RestsAtModulus) : (s.vctAt t).RestsAtModulus := by
  obtain ⟨ks, he⟩ := tickPass_eq h hn
  rw [he] at hrest
  by_cases htn : t = n
  · subst htn
    rw [vctAt_setVct_self _ _ (by simpa using h.vct_length ht)] at hrest
    exact Vct.restsAtModulus_of_passed hrest
  · rwa [vctAt_setVct_ne _ _ htn, fireAll_vctAt] at hrest

/-- The step into the window of log 19. -/
theorem restsAtModulus_opens {s u : State} {t : Nat} (h : Inv s) (hstep : step s = .next u) (ht : t < s.cfg.nVCT)
    (hrest : (u.vctAt t).RestsAtModulus) :
    (s.vctAt t).RestsAtModulus
      ∨ ∃ cmd data, s.inputs.head? = some (.command cmd data)
        ∧ ((decode cmd data = .ok (.vctSetovf t data.toNat) ∧ data.toNat ≤ (s.vctAt t).counterAt s.now)
          ∨ (decode cmd data = .ok (.vctStart t) ∧ (s.vctAt t).overflowModulus = some (s.vctAt t).counterBase)) := by
  obtain ⟨-, -, m, rest, hin, ⟨cmd, data, rfl, hdue, hcmd⟩ | ⟨d, -, -, rfl⟩ | ⟨n, -, hn, rfl⟩⟩ := step_cases hstep
  · obtain ⟨i, hdec, hx⟩ | ⟨e, -, rfl⟩ := hcmd
    · have heff := exec_effect (h.setInputs rest) i
      rw [hx] at heff
      obtain hwas | ⟨m, rfl, hle⟩ | ⟨rfl, hm⟩ :=
        heff.restsAtModulus (h.setInputs rest) ht (anyDue_eq_false_iff.mp hdue) hrest
      · exact .inl hwas
      · obtain rfl := decode_vctSetovf hdec
        exact .inr ⟨cmd, data, by rw [hin]; rfl, .inl ⟨hdec, (Vct.count_eq_counterAt ..).symm ▸ hle⟩⟩
      · exact .inr ⟨cmd, data, by rw [hin]; rfl, .inr ⟨hdec, hm⟩⟩
    · exact .inl hrest
  · exact .inl hrest
  · exact .inl (tickPass_restsAtModulus (h.setInputs rest) (h.timersOk.length ▸ (isDue_iff.mp hn).1) ht hrest)

/-- The counter of a timer that rests at its modulus is the modulus. -/
theorem Vct.Ok.modulus_of_rests {T : Vct} {now : Nat} (h : T.Ok now) (hr : T.RestsAtModulus) :
    T.overflowModulus = some (T.count now) := by
  obtain ⟨-, hs⟩ := Vct.ok_iff.mp h
  obtain ⟨-, hstill, m, hm, hle⟩ := hr
  have hm' : T.overflowModulus = some m := hm
  have hge : T.counterBase ≤ m := by simpa [hm'] using hs.counter
  rw [Vct.count_of_not_counting hstill, hm', Nat.le_antisymm hle hge]

/-- A running timer that is given a nonzero rate when its counter stands at its modulus is armed for that instant
(R178, R184). -/
theorem Vct.armAt_setfreq_of_rests {T : Vct} {now hz : Nat} (h : T.Ok now) (hr : T.RestsAtModulus) (hz0 : hz ≠ 0) :
    Vct.armAt { T.rebase now with frequencyHz := some hz } now = some now := by
  have hm := h.modulus_of_rests hr
  obtain ⟨hrun, -⟩ := hr
  have hrate : Vct.rate { T.rebase now with frequencyHz := some hz } = some hz :=
    Vct.rate_eq_some.mpr ⟨hrun, rfl, hz0⟩
  obtain ⟨d, hd, hle, -, hfirst⟩ := Vct.armAt_spec (now := now) hrate (by simp [Vct.rebase, hm]) (Nat.le_refl now)
  have hnow : ¬ now < d := fun hlt =>
    hfirst now (Nat.le_refl now) hlt (.inl ⟨T.count now, hm,
      Vct.counterBase_le_count { T.rebase now with frequencyHz := some hz } now⟩)
  rw [hd, Nat.le_antisymm (Nat.not_lt.mp hnow) hle]

/-- Settles O60: `restsAtModulus_opens` for the opening, `Vct.Ok.modulus_of_rests` for the counter in it,
`Vct.armAt_setfreq_of_rests` for its end. -/
theorem restAtModulusOnlyAfterCommand : Obligations.RestAtModulusOnlyAfterCommand := by
  refine ⟨fun s u t h hstep ht hrest => restsAtModulus_opens h hstep ht hrest, fun s t h ht hrest => ⟨?_, ?_⟩⟩
  · rw [← Vct.count_eq_counterAt]
    exact (h.timersOk.ok t ht).modulus_of_rests hrest
  · intro hz hz0
    refine ⟨_, withUnit_of_lt (space := .vct) ht, rfl, ?_⟩
    rw [schedule_setVct (h.vct_length ht), respond_vctAt, vctAt_setVct_self _ _ (h.vct_length ht)]
    exact Vct.armAt_setfreq_of_rests (h.timersOk.ok t ht) hrest hz0

/-! ### The reads of a timer (R188, R189) -/

/-- A command word of the `VCT` family with `SUB` 0 (R84). -/
theorem decode_cmdWord_vct {op t : Nat} (ho : op < 16) (ht : t < 65536) (data : DoubleWord) :
    decode (cmdWord 5 op 0 t) data = decodeVct op 0 t data := by
  simp only [decode, cmdKind_cmdWord, cmdOp_cmdWord, cmdSub_cmdWord, cmdIdx_cmdWord, Nat.mod_eq_of_lt ho,
    Nat.mod_eq_of_lt ht]

theorem decode_vctGetcnt {t : Nat} (ht : t < 65536) (data : DoubleWord) :
    decode (cmdOf 0x58000000 0 t) data = .ok (.vctGetcnt t) := by
  rw [cmdOf_eq_cmdWord (k := 5) (op := 8) (by decide) (by decide) (by decide) ht, decode_cmdWord_vct (by decide) ht]
  rfl

theorem decode_vctNext {t : Nat} (ht : t < 65536) (data : DoubleWord) :
    decode (cmdOf 0x59000000 0 t) data = .ok (.vctNext t) := by
  rw [cmdOf_eq_cmdWord (k := 5) (op := 9) (by decide) (by decide) (by decide) ht, decode_cmdWord_vct (by decide) ht]
  rfl

/-- The offset of an armed deadline, saturated below the code for "disarmed" (R189). -/
theorem respNext_some (d now : Nat) : respNext (some d) now
    = if 2 ^ 64 - 2 ≤ d - now then 0xFFFFFFFFFFFFFFFE#64 else BitVec.ofNat 64 (d - now) := by
  rw [show respNext (some d) now = BitVec.ofNat 64 (min (d - now) (2 ^ 64 - 2)) from rfl]
  split
  · rename_i hsat
    rw [Nat.min_eq_right hsat]
    rfl
  · rename_i hlt
    rw [Nat.min_eq_left (Nat.le_of_not_le hlt)]

/-- Settles O48: past the index check both commands only respond; `VCT.NEXT`'s word is `respNext_some`. -/
theorem vctReadsAnswerCountAndDeadline : Obligations.VctReadsAnswerCountAndDeadline := by
  intro s t data ht
  refine ⟨⟨decode_vctGetcnt ht data, ?_⟩, decode_vctNext ht data, withUnit_of_le (space := .vct), ?_, ?_⟩
  · split
    · rename_i hlt
      rw [← Vct.count_eq_counterAt]
      exact withUnit_of_lt (space := .vct) hlt
    · rename_i hge
      exact withUnit_of_le (space := .vct) (Nat.le_of_not_lt hge)
  · intro hlt hd
    refine (withUnit_of_lt (space := .vct) hlt).trans ?_
    rw [hd]
    rfl
  · intro d hlt hd
    refine (withUnit_of_lt (space := .vct) hlt).trans ?_
    rw [hd, respNext_some]
    rfl

/-! ### The reset state (R36) -/

theorem resetOf_srlAt (cfg : Config) (r : Nat) : (State.resetOf cfg).srlAt r = Srl.reset := by
  by_cases hr : r < cfg.nSRL <;> simp [State.srlAt, State.resetOf, hr]

theorem resetOf_srbxAt (cfg : Config) (x : Nat) : (State.resetOf cfg).srbxAt x = Srbx.reset := by
  by_cases hx : x < cfg.nSRBX <;> simp [State.srbxAt, State.resetOf, hx]

theorem resetOf_clcAt (cfg : Config) (c : Nat) : (State.resetOf cfg).clcAt c = Clc.reset := by
  by_cases hc : c < cfg.nCLC <;> simp [State.clcAt, State.resetOf, hc]

theorem resetOf_lineAt (cfg : Config) (i : Nat) : (State.resetOf cfg).lineAt i = ArbLine.reset := by
  by_cases hi : i < cfg.nLINES <;> simp [State.lineAt, State.resetOf, hi]

theorem resetOf_srbAt (cfg : Config) (b : Nat) :
    (State.resetOf cfg).srbAt b = Srb.reset (bankConfig cfg b).nOut := by
  cases hb : cfg.banks[b]? <;> simp [State.srbAt, State.resetOf, bankConfig, hb]

theorem resetOf_vctAt (cfg : Config) (t : Nat) :
    (State.resetOf cfg).vctAt t = Vct.reset (alarmCount cfg t) := by
  cases ht : cfg.timers[t]? <;> simp [State.vctAt, State.resetOf, alarmCount, timerConfig, ht]

theorem resetOf_classAt (cfg : Config) (k : IrqClass) : (State.resetOf cfg).classAt k = ArbClass.reset := by
  cases k <;> rfl

/-- No line competes after reset: none is asserted. -/
theorem resetOf_classOk (cfg : Config) (k : IrqClass) : ClassOk (State.resetOf cfg) k := by
  rw [ClassOk, Settled, resetOf_classAt]
  refine ⟨.inl rfl, fun _ => ⟨fun _ i _ => ?_, nofun⟩, nofun⟩
  exact competes_of_not_asserted (by rw [resetOf_lineAt]; rfl)

/-- No line of a bank is active after reset. -/
theorem Srb.reset_latches (bc : BankConfig) : (Srb.reset bc.nOut).deliveredPerLine
    = (List.range bc.nOut).map fun j =>
      decide (LineActive bc ((Srb.reset bc.nOut).rawStatus &&& (Srb.reset bc.nOut).mask) j) := by
  refine List.ext_getElem (by simp [Srb.reset]) fun j _ _ => ?_
  simp [Srb.reset]

/-- A stopped timer with nothing written meets the invariant. -/
theorem Vct.reset_sound (n now : Nat) : (Vct.reset n).Sound now := by
  refine ⟨Nat.zero_le now, nofun, nofun, nofun, fun a ha => ?_, Nat.le_refl 0⟩
  obtain rfl := List.eq_of_mem_replicate ha
  exact nofun

theorem resetOf_srbOk {cfg : Config} (h : configOk cfg = true) : SrbOk (State.resetOf cfg) := by
  obtain ⟨-, hbanks, -, -⟩ := recordsPresent_of_configOk h
  refine ⟨(List.length_map ..).trans hbanks, fun b _ => ?_, fun b _ => ?_⟩ <;> rw [resetOf_srbAt]
  · exact Srb.reset_latches _
  · exact ⟨BitVec.zero_and, BitVec.zero_and⟩

theorem resetOf_unitsOk {cfg : Config} (h : configOk cfg = true) : UnitsOk (State.resetOf cfg) where
  config := h
  srl := ⟨List.length_replicate, fun r _ => by rw [resetOf_srlAt]; rfl⟩
  srb := resetOf_srbOk h
  srbx := ⟨List.length_replicate, fun x _ => by rw [resetOf_srbxAt]; exact ⟨BitVec.zero_and, BitVec.zero_and⟩⟩
  arb := ⟨List.length_replicate, resetOf_classOk cfg, fun _ i _ => by rw [resetOf_lineAt]; rfl⟩

theorem resetOf_timersOk {cfg : Config} (h : configOk cfg = true) : TimersOk (State.resetOf cfg) := by
  obtain ⟨-, -, -, htimers⟩ := recordsPresent_of_configOk h
  refine ⟨(List.length_map ..).trans htimers, fun t _ => ?_, fun t _ => ?_⟩ <;> rw [resetOf_vctAt]
  · exact List.length_replicate
  · exact Vct.ok_iff.mpr ⟨(Vct.armAt_none (Vct.rate_none_of_stopped rfl) _).symm, Vct.reset_sound ..⟩

/-- The reset state of a well-formed configuration meets the invariant. -/
theorem resetOf_inv {cfg : Config} (h : configOk cfg = true) : Inv (State.resetOf cfg) :=
  inv_iff.mpr ⟨resetOf_unitsOk h, List.length_replicate, resetOf_timersOk h, nofun⟩

/-- Settles O50: construction answers only the reset state of a well-formed configuration. -/
theorem invariantHoldsAtReset : Obligations.InvariantHoldsAtReset := by
  intro cfg s hs
  cases h : configOk cfg with
  | true =>
    cases (construct_of_ok h).symm.trans hs
    exact resetOf_inv h
  | false =>
    obtain ⟨bad, -, hbad⟩ := construct_of_bad h
    cases hbad.symm.trans hs

/-! ### The record a failed construction names (R232) -/

theorem entryBad_of_mem_badEntries {α : Type} {n : Nat} {xs : List α} {ok : α → Bool} {i : Nat}
    (h : i ∈ badEntries n xs ok) : EntryBad n xs (fun x => ok x = true) i := by
  simp only [badEntries, List.mem_filter, List.mem_range, badEntry] at h
  obtain ⟨hrange, hbad⟩ := h
  refine ⟨by omega, ?_⟩
  rintro ⟨hi, x, hx, hok⟩
  rw [Option.mem_def.mp hx] at hbad
  simp [hok] at hbad
  omega

/-- A bad record of a unit: the unit has none, or too many, or the record is bad inside. -/
theorem mem_badInUnits {α : Type} {n : Nat} {xs : List α} {whole : Nat → ConfigRecord}
    {inside : Nat → α → List ConfigRecord} {bad : ConfigRecord} (h : bad ∈ badInUnits n xs whole inside) :
    (∃ i, bad = whole i ∧ ∀ good, EntryBad n xs good i) ∨ ∃ i, ∃ x ∈ xs[i]?, bad ∈ inside i x := by
  simp only [badInUnits, List.mem_flatMap, List.mem_range] at h
  obtain ⟨i, hi, hbad⟩ := h
  cases hx : xs[i]? with
  | none =>
    rw [hx] at hbad
    exact .inl ⟨i, List.mem_singleton.mp hbad, fun _ => ⟨by omega, by simp [hx]⟩⟩
  | some x =>
    rw [hx] at hbad
    by_cases hn : n ≤ i
    · simp only [hn, if_true, List.mem_singleton] at hbad
      exact .inl ⟨i, hbad, fun _ => ⟨by omega, fun ⟨hlt, _⟩ => by omega⟩⟩
    · simp only [hn, if_false] at hbad
      exact .inr ⟨i, x, hx, hbad⟩

/-- A record that is there but not good is a bad entry. -/
theorem entryBad_of_not_good {α : Type} {n : Nat} {xs : List α} {good : α → Prop} {i : Nat} {x : α} (hx : x ∈ xs[i]?)
    (hg : ¬ good x) : EntryBad n xs good i := by
  obtain ⟨hi, -⟩ := List.getElem?_eq_some_iff.mp (Option.mem_def.mp hx)
  refine ⟨.inr hi, ?_⟩
  rintro ⟨-, y, hy, hgy⟩
  cases (Option.mem_def.mp hx).symm.trans (Option.mem_def.mp hy)
  exact hg hgy

theorem countOk_eq_false_iff {cfg : Config} {space : IndexSpace} : countOk cfg space = false
    ↔ indexBound < unitCount cfg space ∨ (space = .arb ∧ cfg.nLINES = 0) := by
  simp only [countOk, Bool.and_eq_false_iff, Bool.or_eq_false_iff, decide_eq_false_iff_not, bne_eq_false_iff_eq,
    Nat.not_le, Nat.lt_one_iff]

theorem recordBad_of_mem_badCounts {cfg : Config} {bad : ConfigRecord} (h : bad ∈ badCounts cfg) :
    RecordBad cfg bad := by
  simp only [badCounts, List.mem_map, List.mem_filter, Bool.not_eq_true', countOk_eq_false_iff] at h
  obtain ⟨space, ⟨hmem, hbig | ⟨rfl, hzero⟩⟩, rfl⟩ := h
  · cases space with
    | clc | srl | srb | srbx | vct => exact hbig
    | arb => exact .inr hbig
    | vctAlarm => simp at hmem
  · exact .inl hzero

theorem recordBad_of_mem_badInBank {cfg : Config} {b : Nat} {bc : BankConfig} {bad : ConfigRecord}
    (hb : bc ∈ cfg.banks[b]?) (h : bad ∈ badInBank cfg.nLINES b bc) : RecordBad cfg bad := by
  simp only [badInBank, List.mem_append, List.mem_map, List.mem_filter, List.mem_range] at h
  obtain (h | ⟨j, hj, rfl⟩) | ⟨e, ⟨he, hbad⟩, rfl⟩ := h
  · split at h
    · cases h
    · rename_i hn
      cases List.mem_singleton.mp h
      exact entryBad_of_not_good hb hn
  · exact ⟨bc, hb, entryBad_of_mem_badEntries hj⟩
  · refine ⟨bc, hb, he, ?_⟩
    cases hr : bankRoute bc e <;> simp_all [routerEventOk]

theorem recordBad_of_mem_badInTimer {cfg : Config} {t : Nat} {tc : TimerConfig} {bad : ConfigRecord}
    (ht : tc ∈ cfg.timers[t]?) (h : bad ∈ badInTimer cfg t tc) : RecordBad cfg bad := by
  simp only [badInTimer, List.mem_append, List.mem_map] at h
  obtain (h | h) | ⟨i, hi, rfl⟩ := h
  · split at h
    · cases h
    · rename_i hn
      cases List.mem_singleton.mp h
      exact entryBad_of_not_good ht hn
  · split at h
    · cases h
    · rename_i hr
      cases List.mem_singleton.mp h
      exact ⟨tc, ht, by simpa using hr⟩
  · exact ⟨tc, ht, entryBad_of_mem_badEntries hi⟩

theorem recordBad_of_mem_badDrivers {cfg : Config} {bad : ConfigRecord} (h : bad ∈ badDrivers cfg) :
    RecordBad cfg bad := by
  simp only [badDrivers, List.mem_map, List.mem_filter] at h
  obtain ⟨id, ⟨-, hid⟩, rfl⟩ := h
  simpa [RecordBad] using hid

/-- Every record that construction can name is bad (R211, R232). -/
theorem recordBad_of_mem_badRecords {cfg : Config} {bad : ConfigRecord} (h : bad ∈ badRecords cfg) :
    RecordBad cfg bad := by
  simp only [badRecords, List.mem_append, List.mem_map] at h
  obtain ((((h | ⟨r, hr, rfl⟩) | h) | ⟨x, hx, rfl⟩) | h) | h := h
  · exact recordBad_of_mem_badCounts h
  · exact entryBad_of_mem_badEntries hr
  · obtain ⟨b, rfl, hb⟩ | ⟨b, bc, hbc, hin⟩ := mem_badInUnits h
    · exact hb _
    · exact recordBad_of_mem_badInBank hbc hin
  · exact entryBad_of_mem_badEntries hx
  · obtain ⟨t, rfl, ht⟩ | ⟨t, tc, htc, hin⟩ := mem_badInUnits h
    · exact ht _
    · exact recordBad_of_mem_badInTimer htc hin
  · exact recordBad_of_mem_badDrivers h

/-- Settles O17: construction names a member of `badRecords`, or answers the reset state, whose units are read one by
one. -/
theorem constructionGivesResetState : Obligations.ConstructionGivesResetState := by
  refine fun cfg => ⟨fun h => ?_, fun h => ?_⟩
  · obtain ⟨bad, hmem, hbad⟩ := construct_of_bad h
    exact ⟨bad, hbad, recordBad_of_mem_badRecords hmem, rfl⟩
  · exact ⟨State.resetOf cfg, construct_of_ok h, rfl, (resetOf_inv h).shape, fun c _ => resetOf_clcAt cfg c,
      fun r _ => resetOf_srlAt cfg r, fun b _ => resetOf_srbAt cfg b, fun x _ => resetOf_srbxAt cfg x,
      fun i _ => resetOf_lineAt cfg i, resetOf_classAt cfg, fun t _ => resetOf_vctAt cfg t, rfl, rfl, rfl, rfl, rfl⟩

end Sys2Proof.Machine
end

