-- ==== Sys2Proof/Proofs/Memory.lean ====
section
/-! SUPPORT. The index spaces, the order of events and repeated commands (`spec/20_memory.md`): an index outside its
space, what each operation appends to the trace, and which commands change nothing when issued again (O13, O16, O57). -/

namespace Sys2Proof.Machine

/-! ### Index spaces (R60, R61) -/

/-- An operation with an index begins with its check, against the size R60 gives for its space (R233). -/
theorem exec_eq_withUnit {i : Instr} {space : IndexSpace} {n : Nat} (h : indexOf i = some (space, n)) (s : State) :
    unitCount s.cfg space = spaceSize s.cfg space ∧ ∃ body, exec i s = withUnit space n s body := by
  cases i with
  | arbTake | arbAck | arbSetmask => cases h
  | _ => cases h; exact ⟨rfl, _, rfl⟩

/-- An alarm id outside its timer's space faults (R61, R186). -/
theorem exec_vctSetalarm_of_le {s : State} {t alarm : Nat} (ticks : Nat) (ht : t < s.cfg.nVCT)
    (ha : alarmCount s.cfg t ≤ alarm) :
    exec (.vctSetalarm t alarm ticks) s = .next (s.faulted (.prgId .vctAlarm alarm)) := by
  rw [← raise_eq_faulted]
  exact (withUnit_of_lt (space := .vct) ht).trans (if_pos ha)

/-- Settles O16: every index goes through the check of `exec_eq_withUnit`; the alarm id has a check of its own. -/
theorem outOfRangeIndexFaults : Obligations.OutOfRangeIndexFaults := by
  refine ⟨fun i s space n hi hn => ?_, fun s t alarm ticks ht ha => exec_vctSetalarm_of_le ticks ht ha, fun _ _ => rfl⟩
  obtain ⟨hsize, body, hx⟩ := exec_eq_withUnit hi s
  rw [hx]
  exact withUnit_of_le (hsize ▸ hn)

/-! ### Events are only appended (R68) -/

/-- The events of `s` are the first events of `u`. -/
def Extends (s u : State) : Prop := s.trace <+: u.trace

theorem Extends.refl (s : State) : Extends s s := ⟨[], List.append_nil _⟩

theorem Extends.trans {s u w : State} (h : Extends s u) (h' : Extends u w) : Extends s w := List.IsPrefix.trans h h'

theorem Extends.of_append {s u : State} {es : List Event} (h : u.trace = s.trace ++ es) : Extends s u :=
  ⟨es, h.symm⟩

theorem emit_extends (e : Event) (s : State) : Extends s (s.emit e) := .of_append rfl

theorem arbitrate_extends (k : IrqClass) (s : State) : Extends s (arbitrate k s) := .of_append (arbitrate_trace k s)

theorem rearbitrate_extends (k : IrqClass) (s : State) : Extends s (rearbitrate k s) :=
  .of_append (rearbitrate_trace k s)

theorem setLevel_extends (id : Nat) (cls : IrqClass) (p n : Byte) (l : Bool) (s : State) :
    Extends s (setLevel id cls p n l s) := .of_append (setLevel_trace id cls p n l s)

theorem takeLine_extends (k : IrqClass) (s : State) : Extends s (takeLine k s) := by
  obtain ⟨i, -, -, ht⟩ | ⟨-, hs⟩ := takeLine_spec k s
  · exact .of_append ht
  · exact hs.symm ▸ .refl s

theorem ackLine_extends (k : IrqClass) (i : Nat) (s : State) : Extends s (ackLine k i s) :=
  (Extends.of_append (es := []) (by simp)).trans (arbitrate_extends ..)

theorem srlUpdate_extends (r : Nat) (s : State) : Extends s (srlUpdate r s) := by
  simp only [srlUpdate]
  split
  · exact .refl s
  · exact (deliver_spec _ _ (s.setSrl r _)).grows

theorem srbLineUpdate_extends (b : Nat) (act : Word) (s : State) (j : Nat) : Extends s (srbLineUpdate b act s j) := by
  simp only [srbLineUpdate]
  split
  · exact .refl s
  · exact (deliver_spec _ _ (s.setSrb b _)).grows

theorem srbUpdate_extends (b : Nat) (s : State) : Extends s (srbUpdate b s) :=
  List.foldlRecOn _ _ (.refl s) fun u h j _ => h.trans (srbLineUpdate_extends b _ u j)

theorem srlSetPending_extends (r : Nat) (p : Bool) (s : State) : Extends s (srlSetPending r p s) :=
  srlUpdate_extends r (s.setSrl r _)

theorem srbSetMaskBits_extends (b : Nat) (bits : Word) (s : State) : Extends s (srbSetMaskBits b bits s) :=
  srbUpdate_extends b (s.setSrb b _)

theorem srbSetRawBits_extends (b : Nat) (bits : Word) (s : State) : Extends s (srbSetRawBits b bits s) :=
  srbUpdate_extends b (s.setSrb b _)

theorem srbClearRawBits_extends (b : Nat) (bits : Word) (s : State) : Extends s (srbClearRawBits b bits s) :=
  srbUpdate_extends b (s.setSrb b _)

theorem srbxChange_extends (x : Nat) (u : Srbx) (s : State) : Extends s (srbxChange x u s) := by
  simp only [srbxChange]
  split
  · exact srbSetRawBits_extends _ _ (s.setSrbx x u)
  · split
    · exact srbClearRawBits_extends _ _ (s.setSrbx x u)
    · exact .refl s

theorem performRoute_extends (route : Route) (s : State) : Extends s (performRoute route s) := by
  cases route with
  | none => exact .refl s
  | srl r => exact srlSetPending_extends r true s
  | srb b bits => exact srbSetRawBits_extends b bits s
  | srbx x bits => exact srbxChange_extends x _ s

theorem fire_extends (t : Nat) (k : Callback) (s : State) : Extends s (fire t k s) :=
  (emit_extends _ s).trans (performRoute_extends ..)

theorem alarmStep_extends (t c : Nat) (s : State) (i : Nat) : Extends s (alarmStep t c s i) := by
  simp only [alarmStep]
  split
  · exact fire_extends _ _ (s.setVct t _)
  · exact .refl s

theorem alarmPass_extends (t c : Nat) (s : State) : Extends s (alarmPass t c s) :=
  List.foldlRecOn _ _ (.refl s) fun u h i _ => h.trans (alarmStep_extends t c u i)

theorem overflowPass_extends (t : Nat) (s : State) : Extends s (overflowPass t s) :=
  (fire_extends t .overflow (s.setVct t _)).trans (alarmPass_extends t 0 (State.setVct _ t _))

theorem schedule_extends (t : Nat) (s : State) : Extends s (schedule t s) := .refl s

theorem tickPass_extends (t : Nat) (s : State) : Extends s (tickPass t s) := by
  unfold tickPass
  split
  · exact .refl s
  · refine Extends.trans ?_ (schedule_extends ..)
    split
    · exact (alarmPass_extends ..).trans (overflowPass_extends ..)
    · exact alarmPass_extends ..

/-- A command issued in state `s` ends in a state whose events begin with those of `s`. -/
inductive AppendsEvents (s : State) : Result → Prop
  | next (u : State) (h : Extends s u) : AppendsEvents s (.next u)

theorem raise_appends (r : FaultRecord) (s : State) : AppendsEvents s (.next (raise r s)) := .next _ (.refl s)

theorem done_appends {s u : State} (v : DoubleWord) (h : Extends s u) : AppendsEvents s (done v u) := .next _ h

theorem ite_appends {s : State} {c : Prop} [Decidable c] {a b : Result} (ha : AppendsEvents s a)
    (hb : AppendsEvents s b) : AppendsEvents s (if c then a else b) := by
  split
  · exact ha
  · exact hb

theorem withUnit_appends {s : State} {space : IndexSpace} {n : Nat} {body : Result} (h : AppendsEvents s body) :
    AppendsEvents s (withUnit space n s body) := ite_appends (raise_appends _ s) h

/-- A command with one unit index and no fault of its own. -/
theorem withUnit_done_appends {s u : State} {space : IndexSpace} {n : Nat} {v : DoubleWord} (h : Extends s u) :
    AppendsEvents s (withUnit space n s (done v u)) := withUnit_appends (done_appends v h)

theorem execArbAck_appends (k : IrqClass) (s : State) : AppendsEvents s (execArbAck k s) := by
  unfold execArbAck
  split
  · exact raise_appends _ s
  · exact done_appends _ (ackLine_extends ..)

/-- Every command, in every state, only appends events. -/
theorem exec_appends (i : Instr) (s : State) : AppendsEvents s (exec i s) := by
  cases i with
  | clcInit | clcSet | clcGet | clcIsen | clcGetpre | srlGet | srbGetmask | srbGetraw | srbGetmis | srbxGetmask
  | srbxGetraw | srbxGetmis | vctReset | vctSetfreq | vctGetcnt | vctNext => exact withUnit_done_appends (.refl s)
  | srlSet r w => exact withUnit_done_appends (srlUpdate_extends r (s.setSrl r _))
  | srlAssert | srlClear => exact withUnit_done_appends (srlSetPending_extends ..)
  | srbSetmask => exact withUnit_done_appends (srbSetMaskBits_extends ..)
  | srbSetraw => exact withUnit_done_appends (srbSetRawBits_extends ..)
  | srbClearraw => exact withUnit_done_appends (srbClearRawBits_extends ..)
  | srbxSetmask | srbxSetraw | srbxClearraw => exact withUnit_done_appends (srbxChange_extends ..)
  | arbSetlevel => exact withUnit_done_appends (setLevel_extends ..)
  | arbTake => exact done_appends _ (takeLine_extends ..)
  | arbAck k => exact execArbAck_appends k s
  | arbSetmask k => exact done_appends _ (.trans (.of_append (es := []) (by simp)) (rearbitrate_extends ..))
  | vctStart =>
    exact withUnit_appends (ite_appends (done_appends _ (.refl s))
      (ite_appends (done_appends _ (.refl s)) (raise_appends _ s)))
  | vctStop => exact withUnit_appends (ite_appends (done_appends _ (.refl s)) (done_appends _ (.refl s)))
  | vctSetovf | vctSetalarm => exact withUnit_appends (ite_appends (raise_appends _ s) (done_appends _ (.refl s)))
  | vctTick t => exact withUnit_done_appends (tickPass_extends t s)

/-- Settles O13: of the kinds of step (`step_cases`), a command and a scheduling pass append events, a fault and a
clock step have none. -/
theorem eventsAreOnlyAppended : Obligations.EventsAreOnlyAppended := by
  intro s t h
  obtain ⟨-, -, m, rest, hin, ⟨cmd, data, rfl, -, hcmd⟩ | ⟨d, rfl, -, rfl⟩ | ⟨n, rfl, -, rfl⟩⟩ := step_cases h
  · refine ⟨?_, by simp [hin]⟩
    obtain ⟨i, -, hx⟩ | ⟨e, -, rfl⟩ := hcmd
    · have happ := exec_appends i (s.setInputs rest)
      rw [hx] at happ
      cases happ with
      | next _ hext => exact hext
    · exact Extends.refl s
  · exact ⟨Extends.refl s, fun _ _ => rfl⟩
  · exact ⟨tickPass_extends n (s.setInputs rest), by simp [hin]⟩

/-! ### Writing a unit's own record changes nothing -/

theorem set_getD_self {α : Type} (xs : List α) (i : Nat) (d : α) : xs.set i (xs[i]?.getD d) = xs := by
  by_cases hi : i < xs.length
  · simp [hi]
  · exact List.set_eq_of_length_le (Nat.le_of_not_lt hi)

theorem setSrl_self (s : State) (r : Nat) : s.setSrl r (s.srlAt r) = s := by
  simp [State.setSrl, State.srlAt, set_getD_self]

theorem setSrb_self (s : State) (b : Nat) : s.setSrb b (s.srbAt b) = s := by
  simp [State.setSrb, State.srbAt, set_getD_self]

theorem setSrbx_self (s : State) (x : Nat) : s.setSrbx x (s.srbxAt x) = s := by
  simp [State.setSrbx, State.srbxAt, set_getD_self]

theorem setLine_self (s : State) (i : Nat) : s.setLine i (s.lineAt i) = s := by
  simp [State.setLine, State.lineAt, set_getD_self]

/-! ### What is up to date, an update leaves alone -/

/-- A RequestLine whose latch is at its level is not delivered again (R111). -/
theorem srlUpdate_of_latched {s : State} {r : Nat} (h : (s.srlAt r).level = (s.srlAt r).deliveredState) :
    srlUpdate r s = s := by simp [srlUpdate, h]

/-- A bank whose latches are the aggregates of its lines is not delivered again (R125). -/
theorem srbUpdate_of_latched {s : State} {b : Nat} (h : ∀ j < (bankConfig s.cfg b).nOut,
    bankAggregate (bankConfig s.cfg b) (s.srbAt b).active j = (s.srbAt b).deliveredPerLine[j]?.getD false) :
    srbUpdate b s = s := by
  refine List.foldlRecOn (motive := (· = s)) _ _ rfl fun u hu j hj => ?_
  subst hu
  simp [srbLineUpdate, h j (List.mem_range.mp hj)]

/-- An extension that keeps its record forwards nothing (R135). -/
theorem srbxChange_self (x : Nat) (s : State) : srbxChange x (s.srbxAt x) s = s := by
  simp [srbxChange, setSrbx_self]

/-- A class that is settled stays as it is, without an edge: the winner is the line already selected (R152). -/
theorem rearbitrate_of_settled {s : State} {k : IrqClass} (h : Settled s k) : rearbitrate k s = s := by
  unfold rearbitrate
  split
  · rename_i hunlocked
    have hbest : best s k = (s.classAt k).selectedLineId := wins_unique (best_wins s k) (h hunlocked)
    have hselect : select k (best s k) s = s := by rw [hbest]; exact setClass_classAt s k
    simp [arbitrate, hselect, emitEdge]
  · rfl

theorem Rearbitrated.settled {s t : State} {k : IrqClass} (h : Rearbitrated s t k) : Settled t k := by
  obtain ⟨hlock, hsel⟩ := h
  intro hunlocked
  rwa [if_pos (hlock.symm.trans hunlocked)] at hsel

theorem settled_respond {s : State} {k : IrqClass} (v : DoubleWord) (h : Settled s k) : Settled (respond v s) k := by
  intro hunlocked
  rw [respond, classAt_setResp] at hunlocked ⊢
  exact wins_of_lines rfl rfl (by simp) (h hunlocked)

/-! ### A command issued again in the state it led to -/

/-- No command changes the configuration. -/
theorem exec_cfg {i : Instr} {s t : State} (h : exec i s = .next t) : t.cfg = s.cfg := by
  obtain ⟨r, rfl⟩ | hk := exec_cases h
  · rfl
  · exact hk.cfg

theorem faulted_faulted (s : State) (r : FaultRecord) : (s.faulted r).faulted r = s.faulted r := by
  simp [State.faulted]

theorem raise_raise (r : FaultRecord) (s : State) : raise r (raise r s) = raise r s := by
  simp only [raise_eq_faulted, faulted_faulted]

/-- The command, issued again in the state it led to, leaves that state as it is (`exec_cfg` gives the condition on the
configuration). -/
def Repeats (cmd : State → Result) (s : State) : Prop := ∀ t, t.cfg = s.cfg → cmd s = .next t → cmd t = .next t

theorem Repeats.exec_again {i : Instr} {s t : State} (hr : Repeats (exec i) s) (h : exec i s = .next t) :
    exec i t = .next t := hr t (exec_cfg h) h

/-- The effect `f` of a command that answers `v` does nothing more once the command has completed. -/
def Spent (f : State → State) (v : DoubleWord) (s : State) : Prop := f (respond v (f s)) = respond v (f s)

/-- A command that always completes, with a spent effect. -/
theorem repeats_done {f : State → State} {v : DoubleWord} {s : State} (hf : Spent f v s) :
    Repeats (fun u => done v (f u)) s := by
  rintro t - ⟨⟩
  show done v (f (respond v (f s))) = done v (respond v (f s))
  rw [hf]

/-- A read whose answer does not depend on the last response. -/
theorem repeats_read {v : State → DoubleWord} (hv : ∀ u w, v (respond w u) = v u) (s : State) :
    Repeats (fun u => done (v u) u) s := by
  rintro t - ⟨⟩
  exact congrArg (done · (respond (v s) s)) (hv s (v s))

/-- The index check answers the second command as it did the first (R61). -/
theorem repeats_withUnit {space : IndexSpace} {n : Nat} {body : State → Result} {s : State}
    (hbody : n < unitCount s.cfg space → Repeats body s) : Repeats (fun u => withUnit space n u (body u)) s := by
  intro t hc h
  simp only [withUnit, hc] at h ⊢
  split at h
  · rename_i hn
    cases h
    rw [if_pos hn, raise_raise]
  · rename_i hn
    rw [if_neg hn]
    exact hbody (Nat.lt_of_not_le hn) t hc h

/-- A command with one unit index and no fault of its own, with a spent effect. -/
theorem repeats_withUnit_done {space : IndexSpace} {n : Nat} {f : State → State} {v : DoubleWord} {s : State}
    (hf : n < unitCount s.cfg space → Spent f v s) :
    Repeats (fun u => withUnit space n u (done v (f u))) s := repeats_withUnit fun hn => repeats_done (hf hn)

/-! ### The pure reads (R65) -/

/-- A pure read checks its index and answers from the state without the last response; it changes nothing else. -/
theorem exec_of_isPureRead {i : Instr} (hi : isPureRead i = true) :
    ∃ space n, ∃ v : State → DoubleWord, (∀ s, exec i s = withUnit space n s (done (v s) s))
      ∧ ∀ s w, v (respond w s) = v s := by
  cases i with
  | clcGet | clcIsen | clcGetpre | srlGet | srbGetmask | srbGetraw | srbGetmis | srbxGetmask | srbxGetraw | srbxGetmis
  | vctGetcnt | vctNext => exact ⟨_, _, _, fun _ => rfl, fun _ _ => rfl⟩
  | _ => cases hi

theorem pureRead_repeats {i : Instr} (hi : isPureRead i = true) (s : State) : Repeats (exec i) s := by
  obtain ⟨space, n, v, hx, hv⟩ := exec_of_isPureRead hi
  rw [funext hx]
  exact repeats_withUnit fun _ => repeats_read hv s

theorem pureRead_frame {i : Instr} {s t : State} (hi : isPureRead i = true) (h : exec i s = .next t) :
    t = { s with resp := t.resp, fault := t.fault } := by
  obtain ⟨space, n, v, hx, -⟩ := exec_of_isPureRead hi
  rw [hx] at h
  unfold withUnit at h
  split at h
  · cases h; rfl
  · cases h; rfl

/-! ### The idempotent writes (R65) -/

theorem setClc_spent (c : Nat) (u : Clc) (v : DoubleWord) (s : State) : Spent (fun t => t.setClc c u) v s := by
  simp [Spent, State.setClc, respond, State.setResp]

/-- The second write of a RequestLine finds its record written and its latch at the level (R111). -/
theorem LineWritten.again {r : Nat} {p e : Bool} {pr : Byte} {s t : State} (h : LineWritten r p e pr s t)
    (v : DoubleWord) {u : Srl} (hu : u = t.srlAt r) : srlUpdate r ((respond v t).setSrl r u) = respond v t := by
  obtain ⟨hat, -⟩ := h
  have hself : (respond v t).setSrl r u = respond v t := hu ▸ setSrl_self (respond v t) r
  have hlatched : ((respond v t).srlAt r).level = ((respond v t).srlAt r).deliveredState := by
    show (t.srlAt r).level = (t.srlAt r).deliveredState
    rw [hat]
    rfl
  rw [hself, srlUpdate_of_latched hlatched]

/-- The second write of a bank finds its record written and its latches at the aggregates (R125). -/
theorem BankWritten.again {b : Nat} {m r : Word} {s t : State} (h : BankWritten b m r s t) (hc : t.cfg = s.cfg)
    (v : DoubleWord) {u : Srb} (hu : u = t.srbAt b) : srbUpdate b ((respond v t).setSrb b u) = respond v t := by
  obtain ⟨hat, -⟩ := h
  have hself : (respond v t).setSrb b u = respond v t := hu ▸ setSrb_self (respond v t) b
  rw [hself]
  refine srbUpdate_of_latched fun j hj => ?_
  show bankAggregate (bankConfig t.cfg b) (t.srbAt b).active j = (t.srbAt b).deliveredPerLine[j]?.getD false
  have hj' : j < (bankConfig s.cfg b).nOut := hc ▸ hj
  rw [hat, hc, bankAggregate_eq, List.getElem?_map, List.getElem?_range hj']
  rfl

theorem srlWrite_spent {r : Nat} {s : State} (hr : r < s.srl.length) (p e : Bool) (pr : Byte) (v : DoubleWord) :
    Spent (fun u => srlUpdate r (u.setSrl r { u.srlAt r with priority := pr, enabled := e, pending := p })) v s := by
  have hw := srlUpdate_spec r p e pr s hr
  refine hw.again v ?_
  obtain ⟨hat, -⟩ := hw
  simp [respond, hat]

theorem srlSetPending_spent {r : Nat} {s : State} (hr : r < s.srl.length) (p : Bool) (v : DoubleWord) :
    Spent (srlSetPending r p) v s := by
  have hw := srlSetPending_spec r p s hr
  refine hw.again v ?_
  obtain ⟨hat, -⟩ := hw
  simp [respond, hat]

section
variable {b : Nat} {s : State} (hb : b < s.srb.length)
  (hl : (s.srbAt b).deliveredPerLine.length = (bankConfig s.cfg b).nOut) (bits : Word) (v : DoubleWord)
include hb hl

theorem srbSetMaskBits_spent : Spent (srbSetMaskBits b bits) v s := by
  have hw := srbSetMaskBits_spec b bits s hb hl
  refine hw.again (by simp) v ?_
  obtain ⟨hat, -⟩ := hw
  simp [respond, hat]

theorem srbSetRawBits_spent : Spent (srbSetRawBits b bits) v s := by
  have hw := srbSetRawBits_spec b bits s hb hl
  refine hw.again (by simp) v ?_
  obtain ⟨hat, -⟩ := hw
  simp [respond, hat, BitVec.or_assoc]

theorem srbClearRawBits_spent : Spent (srbClearRawBits b bits) v s := by
  have hw := srbClearRawBits_spec b bits s hb hl
  refine hw.again (by simp) v ?_
  obtain ⟨hat, -⟩ := hw
  simp [respond, hat, BitVec.and_assoc]

end

/-- An extension holds the record it was given, whatever it forwarded (R135). -/
theorem srbxChange_srbxAt_self {x : Nat} {s : State} (hx : x < s.srbx.length) (u : Srbx) :
    (srbxChange x u s).srbxAt x = u := by
  have hset : (s.setSrbx x u).srbxAt x = u := srbxAt_setSrbx_self s u hx
  simp only [srbxChange]
  split
  · simpa [State.srbxAt] using hset
  · split
    · simpa [State.srbxAt] using hset
    · exact hset

/-- The second write of an extension, of a record `g` that the first write makes final, forwards nothing (R135). -/
theorem srbxChange_spent {x : Nat} {s : State} (hx : x < s.srbx.length) (v : DoubleWord) {g : State → Srbx}
    (hg : ∀ t : State, t.cfg = s.cfg → t.srbxAt x = g s → g t = g s) : Spent (fun u => srbxChange x (g u) u) v s := by
  have hat : (respond v (srbxChange x (g s) s)).srbxAt x = g s := srbxChange_srbxAt_self hx (g s)
  have hcfg : (respond v (srbxChange x (g s) s)).cfg = s.cfg := srbxChange_cfg x (g s) s
  simp only [Spent]
  generalize respond v (srbxChange x (g s) s) = t at *
  rw [hg t hcfg hat, ← hat, srbxChange_self]

/-- The second `ARB.SETLEVEL` finds its line written and both classes settled (R153). -/
theorem setLevel_spent {id : Nat} {s : State} (hid : id < s.lines.length) (cls : IrqClass) (p n : Byte) (l : Bool)
    (v : DoubleWord) : Spent (setLevel id cls p n l) v s := by
  have hsettled : ∀ k, Settled (respond v (setLevel id cls p n l s)) k := fun k =>
    settled_respond v (setLevel_spec id cls p n l s k).settled
  have hline : (respond v (setLevel id cls p n l s)).lineAt id
      = newLine (respond v (setLevel id cls p n l s)).cfg.nestEnabled cls p n l := by
    simp [respond, setLevel_lineAt, hid]
  unfold Spent
  generalize respond v (setLevel id cls p n l s) = t at *
  have hself : t.setLine id (newLine t.cfg.nestEnabled cls p n l) = t := hline ▸ setLine_self t id
  rw [setLevel, hself, rearbitrate_of_settled (hsettled .normal), rearbitrate_of_settled (hsettled .fast)]

/-- The second `ARB.SETMASK` finds its filter written and its class settled (R156). -/
theorem setFilter_spent (k : IrqClass) (m : Option Byte) (v : DoubleWord) (s : State) :
    Spent (fun u => rearbitrate k (u.setClass k { u.classAt k with maskBelowPriority := m })) v s := by
  simp only [Spent]
  generalize hs1 : s.setClass k { s.classAt k with maskBelowPriority := m } = s1
  have hmask : ((respond v (rearbitrate k s1)).classAt k).maskBelowPriority = m := by simp [respond, ← hs1]
  have hsettled := settled_respond v (rearbitrate_spec k s1).settled
  generalize respond v (rearbitrate k s1) = t at *
  have hself : t.setClass k { t.classAt k with maskBelowPriority := m } = t := hmask ▸ setClass_classAt t k
  rw [hself, rearbitrate_of_settled hsettled]

/-- The second `VCT.START` finds the timer running and does nothing, or faults as the first did (R180). -/
theorem execVctStart_repeats {s : State} (hlen : s.vct.length = s.cfg.nVCT) (n : Nat) : Repeats (execVctStart n) s := by
  refine repeats_withUnit fun hn t _ h => ?_
  have hlt : n < s.vct.length := hlen ▸ hn
  split at h
  · rename_i hrunning
    cases h
    exact if_pos hrunning
  · rename_i hstopped
    split at h
    · cases h
      exact if_pos (by simp [respond, schedule_setVct hlt, vctAt_setVct_self _ _ hlt, Vct.armed])
    · rename_i hunwritten
      cases h
      exact (if_neg hstopped).trans ((if_neg hunwritten).trans (by rw [raise_raise]))

/-- The second `VCT.STOP` finds the timer stopped (R181). -/
theorem execVctStop_repeats {s : State} (hlen : s.vct.length = s.cfg.nVCT) (n : Nat) : Repeats (execVctStop n) s := by
  refine repeats_withUnit fun hn t _ h => ?_
  have hlt : n < s.vct.length := hlen ▸ hn
  split at h
  · cases h
    exact if_neg (by simp [respond, vctAt_setVct_self _ _ hlt])
  · rename_i hstopped
    cases h
    exact if_neg hstopped

/-- Every idempotent write of R65. -/
theorem idempotentWrite_repeats {i : Instr} {s : State} (hs : s.Shape) (hi : isIdempotentWrite i = true) :
    Repeats (exec i) s := by
  obtain ⟨-, hsrl, hsrb, hsrbx, hlines, hvct, hlatches, -⟩ := hs
  cases i with
  | clcInit | clcSet => exact repeats_withUnit_done fun _ => setClc_spent ..
  | srlSet => exact repeats_withUnit_done fun hr => srlWrite_spent (hsrl ▸ hr) ..
  | srlAssert | srlClear => exact repeats_withUnit_done fun hr => srlSetPending_spent (hsrl ▸ hr) ..
  | srbSetmask b => exact repeats_withUnit_done fun hb => srbSetMaskBits_spent (hsrb ▸ hb) (hlatches b hb) ..
  | srbSetraw b => exact repeats_withUnit_done fun hb => srbSetRawBits_spent (hsrb ▸ hb) (hlatches b hb) ..
  | srbClearraw b => exact repeats_withUnit_done fun hb => srbClearRawBits_spent (hsrb ▸ hb) (hlatches b hb) ..
  | srbxSetmask =>
    exact repeats_withUnit_done fun hx => srbxChange_spent (hsrbx ▸ hx) _ fun t hc hat => by simp [hc, hat]
  | srbxSetraw =>
    exact repeats_withUnit_done fun hx => srbxChange_spent (hsrbx ▸ hx) _ fun t hc hat => by
      simp [hc, hat, BitVec.or_assoc]
  | srbxClearraw =>
    exact repeats_withUnit_done fun hx => srbxChange_spent (hsrbx ▸ hx) _ fun t _ hat => by
      simp [hat, BitVec.and_assoc]
  | arbSetlevel => exact repeats_withUnit_done fun hid => setLevel_spent (hlines ▸ hid) ..
  | arbSetmask => exact repeats_done (setFilter_spent ..)
  | vctStart t => exact execVctStart_repeats hvct t
  | vctStop t => exact execVctStop_repeats hvct t
  | _ => cases hi

/-- Settles O57: the reads have `pureRead_frame` and `pureRead_repeats`, the writes `idempotentWrite_repeats`. -/
theorem repeatedCommandsChangeNothing : Obligations.RepeatedCommandsChangeNothing :=
  fun _ s _ hs h => ⟨fun hi => ⟨pureRead_frame hi h, (pureRead_repeats hi s).exec_again h⟩,
    fun hi => (idempotentWrite_repeats hs hi).exec_again h⟩

end Sys2Proof.Machine
end

