-- ==== Sys2Proof/Proofs/Encoding.lean ====
section
/-! SUPPORT. The encoding (`spec/30_encoding.md`): a command word is its four fields, each row of the opcode table fixes
some of them, and the decoder inverts the encoder and reads no other bits (O1 to O6). -/

namespace Sys2Proof.Machine

/-! ### The fields of a command word (R81) -/

theorem cmdKind_lt (cmd : Word) : cmdKind cmd < 16 := (cmd.extractLsb' 28 4).isLt

theorem cmdOp_lt (cmd : Word) : cmdOp cmd < 16 := (cmd.extractLsb' 24 4).isLt

theorem cmdSub_lt (cmd : Word) : cmdSub cmd < 256 := (cmd.extractLsb' 16 8).isLt

theorem cmdIdx_lt (cmd : Word) : cmdIdx cmd < 65536 := (cmd.extractLsb' 0 16).isLt

/-- A command word is the word of its four fields. -/
theorem cmdWord_fields (cmd : Word) : cmdWord (cmdKind cmd) (cmdOp cmd) (cmdSub cmd) (cmdIdx cmd) = cmd := by
  simp only [cmdWord, cmdKind, cmdOp, cmdSub, cmdIdx, BitVec.ofNat_toNat, BitVec.setWidth_eq]
  have hhigh : cmd.extractLsb' 28 4 ++ cmd.extractLsb' 24 4 = cmd.extractLsb' 24 8 :=
    BitVec.extractLsb'_append_extractLsb'_eq_extractLsb' rfl
  have hlow : cmd.extractLsb' 16 8 ++ cmd.extractLsb' 0 16 = cmd.extractLsb' 0 24 :=
    BitVec.extractLsb'_append_extractLsb'_eq_extractLsb' rfl
  have hall : cmd.extractLsb' 24 8 ++ cmd.extractLsb' 0 24 = cmd.extractLsb' 0 32 :=
    BitVec.extractLsb'_append_extractLsb'_eq_extractLsb' rfl
  rw [hhigh, hlow]
  exact hall.trans BitVec.extractLsb'_eq_self

theorem toNat_cmdWord {k op sub idx : Nat} (hk : k < 16) (ho : op < 16) (hs : sub < 256) (hi : idx < 65536) :
    (cmdWord k op sub idx).toNat = k * 2 ^ 28 + op * 2 ^ 24 + sub * 2 ^ 16 + idx := by
  unfold cmdWord
  rw [toNat_append_fields, toNat_append_fields, toNat_append_fields]
  simp only [BitVec.toNat_ofNat]
  omega

/-- Settles O2: the word of its own fields is `cmdWord_fields`, and a field that fits is not cut. -/
theorem commandWordIsItsFields : Obligations.CommandWordIsItsFields := by
  refine ⟨fun cmd => ⟨(cmdWord_fields cmd).symm, ?_⟩, fun k op sub idx hk ho hs hi => ?_⟩
  · calc cmd.toNat
        = (cmdWord (cmdKind cmd) (cmdOp cmd) (cmdSub cmd) (cmdIdx cmd)).toNat := by rw [cmdWord_fields]
      _ = _ := toNat_cmdWord (cmdKind_lt cmd) (cmdOp_lt cmd) (cmdSub_lt cmd) (cmdIdx_lt cmd)
  · simp [Nat.mod_eq_of_lt hk, Nat.mod_eq_of_lt ho, Nat.mod_eq_of_lt hs, Nat.mod_eq_of_lt hi]

/-! ### The decoder on fields -/

/-- The decoder, given the four fields of the command word. -/
def decodeFields (k op sub idx : Nat) (data : DoubleWord) : Except Illegal Instr :=
  match k with
  | 0 => decodeClc op sub idx data
  | 1 => decodeSrl op sub idx data
  | 2 => decodeSrb op sub idx data
  | 3 => decodeSrbx op sub idx data
  | 4 => decodeArb op sub idx data
  | 5 => decodeVct op sub idx data
  | _ => .error .reservedKind

theorem decode_eq_decodeFields (cmd : Word) (data : DoubleWord) :
    decode cmd data = decodeFields (cmdKind cmd) (cmdOp cmd) (cmdSub cmd) (cmdIdx cmd) data := rfl

theorem decode_cmdWord {k op sub idx : Nat} (hk : k < 16) (ho : op < 16) (hs : sub < 256) (hi : idx < 65536)
    (data : DoubleWord) : decode (cmdWord k op sub idx) data = decodeFields k op sub idx data := by
  rw [decode_eq_decodeFields, cmdKind_cmdWord, cmdOp_cmdWord, cmdSub_cmdWord, cmdIdx_cmdWord, Nat.mod_eq_of_lt hk,
    Nat.mod_eq_of_lt ho, Nat.mod_eq_of_lt hs, Nat.mod_eq_of_lt hi]

theorem subZero_eq_ok {sub : Nat} {i j : Instr} (h : subZero sub i = .ok j) : sub = 0 ∧ j = i := by
  refine ⟨?_, eq_of_subZero h⟩
  unfold subZero at h
  split at h
  · assumption
  · cases h

theorem classCode_lt (c : IrqClass) : classCode c < 256 := by cases c <;> decide

@[simp] theorem subClass_classCode (c : IrqClass) (i : IrqClass → Instr) : subClass (classCode c) i = .ok (i c) := by
  cases c <;> rfl

@[simp] theorem subClassIdxZero_classCode (c : IrqClass) (i : IrqClass → Instr) :
    subClassIdxZero (classCode c) 0 i = .ok (i c) := subClass_classCode c i

theorem subClass_eq_ok {sub : Nat} {i : IrqClass → Instr} {j : Instr} (h : subClass sub i = .ok j) :
    ∃ c, sub = classCode c ∧ j = i c := by
  unfold subClass at h
  split at h
  · cases h; exact ⟨.normal, ‹_›, rfl⟩
  · split at h
    · cases h; exact ⟨.fast, ‹_›, rfl⟩
    · cases h

theorem subClassIdxZero_eq_ok {sub idx : Nat} {i : IrqClass → Instr} {j : Instr}
    (h : subClassIdxZero sub idx i = .ok j) : idx = 0 ∧ ∃ c, sub = classCode c ∧ j = i c := by
  unfold subClassIdxZero at h
  split at h
  · exact ⟨‹_›, subClass_eq_ok h⟩
  · cases h

/-! ### Decoding an encoded instruction -/

theorem idxFits_iff {n : Nat} : idxFits n = true ↔ n < 65536 := decide_eq_true_iff

theorem alarmFits_iff {n : Nat} : alarmFits n = true ↔ n < 256 := decide_eq_true_iff

theorem dataFits_iff {n : Nat} : dataFits n = true ↔ n < 2 ^ 64 := decide_eq_true_iff

/-- Settles O1: the fields of the encoded word are the operands, which fit (`decode_cmdWord`), and the operands in
`DATA` are read back. -/
theorem decodeInvertsEncode : Obligations.DecodeInvertsEncode := by
  intro i h
  cases i with
  | arbTake c | arbAck c =>
    exact (decode_cmdWord (by decide) (by decide) (classCode_lt c) (by decide) _).trans (subClassIdxZero_classCode c _)
  | arbSetmask c e n =>
    refine (decode_cmdWord (by decide) (by decide) (classCode_lt c) (by decide) _).trans ?_
    simp [decodeFields, decodeArb, encode]
  | arbSetlevel id c p n l =>
    refine (decode_cmdWord (by decide) (by decide) (classCode_lt c) (idxFits_iff.1 h) _).trans ?_
    simp [decodeFields, decodeArb, encode]
  | clcSet c v | srbSetmask c v | srbSetraw c v | srbClearraw c v | srbxSetmask c v | srbxSetraw c v
  | srbxClearraw c v =>
    refine (decode_cmdWord (by decide) (by decide) (by decide) (idxFits_iff.1 h) _).trans ?_
    simp [decodeFields, decodeClc, decodeSrb, decodeSrbx, encode, subZero]
  | srlSet r w =>
    refine (decode_cmdWord (by decide) (by decide) (by decide) (idxFits_iff.1 h) _).trans ?_
    simp [decodeFields, decodeSrl, encode, subZero]
  | vctSetfreq t n | vctSetovf t n =>
    obtain ⟨ht, hn⟩ := Bool.and_eq_true_iff.1 h
    refine (decode_cmdWord (by decide) (by decide) (by decide) (idxFits_iff.1 ht) _).trans ?_
    simpa [decodeFields, decodeVct, encode, subZero] using dataFits_iff.1 hn
  | vctSetalarm t a n =>
    obtain ⟨hta, hn⟩ := Bool.and_eq_true_iff.1 h
    obtain ⟨ht, ha⟩ := Bool.and_eq_true_iff.1 hta
    refine (decode_cmdWord (by decide) (by decide) (alarmFits_iff.1 ha) (idxFits_iff.1 ht) _).trans ?_
    simpa [decodeFields, decodeVct, encode] using dataFits_iff.1 hn
  | _ => exact decode_cmdWord (by decide) (by decide) (by decide) (idxFits_iff.1 h) _

/-- Settles O5: each word is the encoding of its instruction. -/
theorem specWordsDecode : Obligations.SpecWordsDecode :=
  ⟨decodeInvertsEncode (.clcSet 0 0x201#32) rfl, decodeInvertsEncode (.srlSet 0 0x9005#16) rfl,
    decodeInvertsEncode (.srbSetmask 0 0x3#32) rfl, decodeInvertsEncode (.srbxSetraw 0 0x1#32) rfl,
    decodeInvertsEncode (.arbSetlevel 1 .normal 3#8 0#8 true) rfl, decodeInvertsEncode (.vctSetalarm 0 0 500) rfl⟩

/-! ### Encoding a decoded instruction -/

/-- The instruction fits its fields, and its command word is `cmd`. -/
def FitsWord (cmd : Word) (i : Instr) : Prop := i.wf = true ∧ (encode i).1 = cmd

section
variable {op sub idx : Nat} {data : DoubleWord} {i : Instr}

theorem decodeClc_fitsWord (hi : idx < 65536) (h : decodeClc op sub idx data = .ok i) :
    FitsWord (cmdWord 0 op sub idx) i := by
  unfold decodeClc at h
  split at h
  iterate 5 · obtain ⟨rfl, rfl⟩ := subZero_eq_ok h; exact ⟨idxFits_iff.2 hi, rfl⟩
  · cases h

theorem decodeSrl_fitsWord (hi : idx < 65536) (h : decodeSrl op sub idx data = .ok i) :
    FitsWord (cmdWord 1 op sub idx) i := by
  unfold decodeSrl at h
  split at h
  iterate 4 · obtain ⟨rfl, rfl⟩ := subZero_eq_ok h; exact ⟨idxFits_iff.2 hi, rfl⟩
  · cases h

theorem decodeSrb_fitsWord (hi : idx < 65536) (h : decodeSrb op sub idx data = .ok i) :
    FitsWord (cmdWord 2 op sub idx) i := by
  unfold decodeSrb at h
  split at h
  iterate 6 · obtain ⟨rfl, rfl⟩ := subZero_eq_ok h; exact ⟨idxFits_iff.2 hi, rfl⟩
  · cases h

theorem decodeSrbx_fitsWord (hi : idx < 65536) (h : decodeSrbx op sub idx data = .ok i) :
    FitsWord (cmdWord 3 op sub idx) i := by
  unfold decodeSrbx at h
  split at h
  iterate 6 · obtain ⟨rfl, rfl⟩ := subZero_eq_ok h; exact ⟨idxFits_iff.2 hi, rfl⟩
  · cases h

theorem decodeArb_fitsWord (hi : idx < 65536) (h : decodeArb op sub idx data = .ok i) :
    FitsWord (cmdWord 4 op sub idx) i := by
  unfold decodeArb at h
  split at h
  · obtain ⟨c, rfl, rfl⟩ := subClass_eq_ok h; exact ⟨idxFits_iff.2 hi, rfl⟩
  iterate 3 · obtain ⟨rfl, c, rfl, rfl⟩ := subClassIdxZero_eq_ok h; exact ⟨rfl, rfl⟩
  · cases h

theorem decodeVct_fitsWord (hs : sub < 256) (hi : idx < 65536) (h : decodeVct op sub idx data = .ok i) :
    FitsWord (cmdWord 5 op sub idx) i := by
  have hn : data.toNat < 2 ^ 64 := data.isLt
  unfold decodeVct at h
  split at h
  iterate 3 · obtain ⟨rfl, rfl⟩ := subZero_eq_ok h; exact ⟨idxFits_iff.2 hi, rfl⟩
  iterate 2
    · obtain ⟨rfl, rfl⟩ := subZero_eq_ok h
      exact ⟨Bool.and_eq_true_iff.2 ⟨idxFits_iff.2 hi, dataFits_iff.2 hn⟩, rfl⟩
  · cases h
    have hta := Bool.and_eq_true_iff.2 ⟨idxFits_iff.2 hi, alarmFits_iff.2 hs⟩
    exact ⟨Bool.and_eq_true_iff.2 ⟨hta, dataFits_iff.2 hn⟩, rfl⟩
  iterate 3 · obtain ⟨rfl, rfl⟩ := subZero_eq_ok h; exact ⟨idxFits_iff.2 hi, rfl⟩
  · cases h

theorem decodeFields_fitsWord {k : Nat} (hs : sub < 256) (hi : idx < 65536)
    (h : decodeFields k op sub idx data = .ok i) : FitsWord (cmdWord k op sub idx) i := by
  unfold decodeFields at h
  split at h
  · exact decodeClc_fitsWord hi h
  · exact decodeSrl_fitsWord hi h
  · exact decodeSrb_fitsWord hi h
  · exact decodeSrbx_fitsWord hi h
  · exact decodeArb_fitsWord hi h
  · exact decodeVct_fitsWord hs hi h
  · cases h

end

/-- A decoded instruction is well-formed, and encodes to the command word it was decoded from. -/
theorem decode_fitsWord {cmd : Word} {data : DoubleWord} {i : Instr} (h : decode cmd data = .ok i) :
    FitsWord cmd i :=
  cmdWord_fields cmd ▸ decodeFields_fitsWord (cmdSub_lt cmd) (cmdIdx_lt cmd) h

/-! ### What a row fixes in a command word (R84) -/

/-- A field that the mask covers is the pattern's. -/
theorem extractLsb'_of_and {cmd mask pattern : Word} {start len : Nat} (h : cmd &&& mask = pattern)
    (hm : mask.extractLsb' start len = BitVec.allOnes len) :
    cmd.extractLsb' start len = pattern.extractLsb' start len := by
  rw [← h, BitVec.extractLsb'_and, hm, BitVec.and_allOnes]

section
variable {cmd pattern : Word}

/-- The mask `0xFFFF0000` fixes `K`, `OP` and `SUB`. -/
theorem decode_of_and_unit (h : cmd &&& 0xFFFF0000#32 = pattern) (data : DoubleWord) :
    decode cmd data = decodeFields (cmdKind pattern) (cmdOp pattern) (cmdSub pattern) (cmdIdx cmd) data := by
  rw [decode_eq_decodeFields, cmdKind, cmdOp, cmdSub, extractLsb'_of_and h rfl, extractLsb'_of_and h rfl,
    extractLsb'_of_and h rfl]
  rfl

/-- The mask `0xFF000000` fixes `K` and `OP`. -/
theorem decode_of_and_op (h : cmd &&& 0xFF000000#32 = pattern) (data : DoubleWord) :
    decode cmd data = decodeFields (cmdKind pattern) (cmdOp pattern) (cmdSub cmd) (cmdIdx cmd) data := by
  rw [decode_eq_decodeFields, cmdKind, cmdOp, extractLsb'_of_and h rfl, extractLsb'_of_and h rfl]
  rfl

/-- A `SUB` with no bit set above the lowest is a class. -/
theorem cmdSub_eq_classCode (h : cmd.extractLsb' 17 7 = 0#7) : ∃ c, cmdSub cmd = classCode c := by
  have hs : cmdSub cmd < 2 := by
    have h7 := congrArg BitVec.toNat h
    simp only [BitVec.extractLsb'_toNat, Nat.shiftRight_eq_div_pow, BitVec.toNat_ofNat] at h7
    simp only [cmdSub, BitVec.extractLsb'_toNat, Nat.shiftRight_eq_div_pow]
    omega
  obtain h0 | h1 : cmdSub cmd = 0 ∨ cmdSub cmd = 1 := by omega
  · exact ⟨.normal, h0⟩
  · exact ⟨.fast, h1⟩

/-- The mask `0xFFFE0000` fixes `K`, `OP` and all of `SUB` but the class. -/
theorem decode_of_and_class (h : cmd &&& 0xFFFE0000#32 = pattern) (hp : pattern.extractLsb' 17 7 = 0#7) :
    ∃ c, ∀ data, decode cmd data
      = decodeFields (cmdKind pattern) (cmdOp pattern) (classCode c) (cmdIdx cmd) data := by
  obtain ⟨c, hc⟩ := cmdSub_eq_classCode ((extractLsb'_of_and h rfl).trans hp)
  refine ⟨c, fun data => ?_⟩
  rw [decode_eq_decodeFields, hc, cmdKind, cmdOp, extractLsb'_of_and h rfl, extractLsb'_of_and h rfl]
  rfl

/-- The mask `0xFFFEFFFF` fixes all fields but the class. -/
theorem decode_of_and_class_idx (h : cmd &&& 0xFFFEFFFF#32 = pattern) (hp : pattern.extractLsb' 17 7 = 0#7) :
    ∃ c, ∀ data, decode cmd data
      = decodeFields (cmdKind pattern) (cmdOp pattern) (classCode c) (cmdIdx pattern) data := by
  obtain ⟨c, hc⟩ := cmdSub_eq_classCode ((extractLsb'_of_and h rfl).trans hp)
  refine ⟨c, fun data => ?_⟩
  rw [decode_eq_decodeFields, hc, cmdKind, cmdOp, cmdIdx, extractLsb'_of_and h rfl, extractLsb'_of_and h rfl,
    extractLsb'_of_and h rfl]
  rfl

end

/-! ### The bits of `DATA` a row lists (R82) -/

/-- The operands of `DATA` that lie within the bits `used` are read from those bits alone. -/
theorem extractLsb'_and_used {used : DoubleWord} {start len : Nat}
    (hu : used.extractLsb' start len = BitVec.allOnes len) (data : DoubleWord) :
    (data &&& used).extractLsb' start len = data.extractLsb' start len := by
  rw [BitVec.extractLsb'_and, hu, BitVec.and_allOnes]

/-- The command word decodes, whatever `DATA` holds, to an instruction that depends on the bits `used` of it alone. -/
def DecodesFrom (cmd : Word) (used : DoubleWord) : Prop :=
  ∃ f : DoubleWord → Instr, ∀ data, decode cmd data = .ok (f (data &&& used))

section
variable {cmd : Word}

theorem DecodesFrom.noData {used : DoubleWord} {i : Instr} (h : ∀ data, decode cmd data = .ok i) :
    DecodesFrom cmd used := ⟨fun _ => i, h⟩

theorem DecodesFrom.word {f : Word → Instr} (h : ∀ data, decode cmd data = .ok (f (dataWord data))) :
    DecodesFrom cmd 0xFFFFFFFF#64 :=
  ⟨fun data => f (dataWord data), fun data =>
    (h data).trans (congrArg (Except.ok ∘ f) (extractLsb'_and_used rfl data).symm)⟩

theorem DecodesFrom.half {f : Half → Instr} (h : ∀ data, decode cmd data = .ok (f (dataHalf data))) :
    DecodesFrom cmd 0xFFFF#64 :=
  ⟨fun data => f (dataHalf data), fun data =>
    (h data).trans (congrArg (Except.ok ∘ f) (extractLsb'_and_used rfl data).symm)⟩

theorem DecodesFrom.all {f : DoubleWord → Instr} (h : ∀ data, decode cmd data = .ok (f data)) :
    DecodesFrom cmd 0xFFFFFFFFFFFFFFFF#64 :=
  ⟨f, fun data => (h data).trans (congrArg (Except.ok ∘ f) BitVec.and_allOnes.symm)⟩

theorem DecodesFrom.setlevel {f : Byte → Byte → Bool → Instr}
    (h : ∀ data, decode cmd data = .ok (f (dataByte0 data) (dataByte1 data) (dataLevel data))) :
    DecodesFrom cmd 0x1FFFF#64 :=
  ⟨fun data => f (dataByte0 data) (dataByte1 data) (dataLevel data), fun data => by
    have hprio : dataByte0 (data &&& 0x1FFFF#64) = dataByte0 data := extractLsb'_and_used rfl data
    have hnest : dataByte1 (data &&& 0x1FFFF#64) = dataByte1 data := extractLsb'_and_used rfl data
    simp [h, hprio, hnest, dataLevel]⟩

theorem DecodesFrom.setmask {f : Bool → Byte → Instr}
    (h : ∀ data, decode cmd data = .ok (f (dataEnable data) (dataByte0 data))) : DecodesFrom cmd 0x1FF#64 :=
  ⟨fun data => f (dataEnable data) (dataByte0 data), fun data => by
    have hn : dataByte0 (data &&& 0x1FF#64) = dataByte0 data := extractLsb'_and_used rfl data
    simp [h, hn, dataEnable]⟩

end

/-- A row decodes every command word it selects, and reads the bits of `DATA` that it lists. -/
def RowDecodes (row : OpcodeRow) : Prop :=
  ∀ cmd : Word, cmd &&& row.mask = row.pattern → DecodesFrom cmd row.usedData

theorem opcodeRowsLines_decode : ∀ row ∈ opcodeRowsLines, RowDecodes row := by
  simp only [opcodeRowsLines, List.forall_mem_cons]
  refine ⟨?_, ?_, ?_, ?_, ?_, ?_, ?_, ?_, ?_, List.forall_mem_nil _⟩
  · exact fun _ h => .noData (decode_of_and_unit h)
  · exact fun _ h => .word (decode_of_and_unit h)
  iterate 3 · exact fun _ h => .noData (decode_of_and_unit h)
  · exact fun _ h => .half (decode_of_and_unit h)
  iterate 3 · exact fun _ h => .noData (decode_of_and_unit h)

theorem opcodeRowsBanks_decode : ∀ row ∈ opcodeRowsBanks, RowDecodes row := by
  simp only [opcodeRowsBanks, List.forall_mem_cons]
  refine ⟨?_, ?_, ?_, ?_, ?_, ?_, ?_, ?_, ?_, ?_, ?_, ?_, List.forall_mem_nil _⟩
  iterate 2
    iterate 3 · exact fun _ h => .word (decode_of_and_unit h)
    iterate 3 · exact fun _ h => .noData (decode_of_and_unit h)

theorem opcodeRowsArbVct_decode : ∀ row ∈ opcodeRowsArbVct, RowDecodes row := by
  simp only [opcodeRowsArbVct, List.forall_mem_cons]
  refine ⟨fun cmd h => ?_, fun _ h => ?_, fun _ h => ?_, fun _ h => ?_, ?_, ?_, ?_, ?_, ?_, ?_, ?_, ?_, ?_,
    List.forall_mem_nil _⟩
  · obtain ⟨c, hc⟩ := decode_of_and_class h rfl
    exact .setlevel fun data => (hc data).trans (subClass_classCode c fun k =>
      .arbSetlevel (cmdIdx cmd) k (dataByte0 data) (dataByte1 data) (dataLevel data))
  iterate 2
    · obtain ⟨c, hc⟩ := decode_of_and_class_idx h rfl
      exact .noData fun data => (hc data).trans (subClassIdxZero_classCode c _)
  · obtain ⟨c, hc⟩ := decode_of_and_class_idx h rfl
    exact .setmask fun data => (hc data).trans (subClassIdxZero_classCode c fun k =>
      .arbSetmask k (dataEnable data) (dataByte0 data))
  iterate 3 · exact fun _ h => .noData (decode_of_and_unit h)
  iterate 2 · exact fun _ h => .all (decode_of_and_unit h)
  · exact fun _ h => .all (decode_of_and_op h)
  iterate 3 · exact fun _ h => .noData (decode_of_and_unit h)

/-- Every row of the opcode table decodes the words it selects, from the bits of `DATA` it lists (R82, R84). -/
theorem opcodeRows_decode : ∀ row ∈ opcodeRows, RowDecodes row :=
  List.forall_mem_append.2
    ⟨opcodeRowsLines_decode, List.forall_mem_append.2 ⟨opcodeRowsBanks_decode, opcodeRowsArbVct_decode⟩⟩

/-- Settles O4: the instruction is a function of the listed bits (`opcodeRows_decode`). -/
theorem unlistedDataBitsIgnored : Obligations.UnlistedDataBitsIgnored := by
  intro row hrow cmd d d' hsel hd
  obtain ⟨f, hf⟩ := opcodeRows_decode row hrow cmd hsel
  rw [hf, hf, hd]

/-! ### One row at most, and exactly one for a word that decodes (R84, R85) -/

/-- `K` and `OP` of a command word, side by side. -/
theorem toNat_div_eq_extractLsb' (w : Word) : w.toNat / 2 ^ 24 = (w.extractLsb' 24 8).toNat := by
  rw [BitVec.extractLsb'_toNat, Nat.shiftRight_eq_div_pow]
  omega

/-- Every mask covers `K` and `OP`. -/
theorem opcodeRows_mask_opcode {row : OpcodeRow} (h : row ∈ opcodeRows) :
    row.mask.extractLsb' 24 8 = BitVec.allOnes 8 := by
  revert row
  decide

theorem opcodeRows_nodup_opcodes : (opcodeRows.map fun r => r.pattern.toNat / 2 ^ 24).Nodup := by decide

theorem opcodeRows_nodup_mnemonics : (opcodeRows.map OpcodeRow.mnemonic).Nodup := by decide

/-- A selected word has the `K` and `OP` of the row's pattern. -/
theorem opcode_of_selects {row : OpcodeRow} {cmd : Word} (h : row ∈ opcodeRows)
    (hsel : cmd &&& row.mask = row.pattern) : cmd.toNat / 2 ^ 24 = row.pattern.toNat / 2 ^ 24 := by
  rw [toNat_div_eq_extractLsb', toNat_div_eq_extractLsb', extractLsb'_of_and hsel (opcodeRows_mask_opcode h)]

/-- No two rows select one word: they would have the same `K` and `OP`. -/
theorem row_unique_of_selects {row row' : OpcodeRow} {cmd : Word} (h : row ∈ opcodeRows) (h' : row' ∈ opcodeRows)
    (hsel : cmd &&& row.mask = row.pattern) (hsel' : cmd &&& row'.mask = row'.pattern) : row = row' :=
  List.inj_on_of_nodup_map opcodeRows_nodup_opcodes h h'
    ((opcode_of_selects h hsel).symm.trans (opcode_of_selects h' hsel'))

open Laws.EncodesToItsRow in
/-- The per-instruction laws, together. -/
theorem encodesToItsRow (i : Instr) : Statement i := by
  cases i
  exacts [clcInit .., clcSet .., clcGet .., clcIsen .., clcGetpre .., srlSet .., srlGet .., srlAssert .., srlClear ..,
    srbSetmask .., srbSetraw .., srbClearraw .., srbGetmask .., srbGetraw .., srbGetmis .., srbxSetmask ..,
    srbxSetraw .., srbxClearraw .., srbxGetmask .., srbxGetraw .., srbxGetmis .., arbSetlevel .., arbTake ..,
    arbAck .., arbSetmask .., vctStart .., vctStop .., vctReset .., vctSetfreq .., vctSetovf .., vctSetalarm ..,
    vctTick .., vctGetcnt .., vctNext ..]

/-- A word that decodes is selected by the row of the instruction's mnemonic. -/
theorem exists_row_of_decode {cmd : Word} {data : DoubleWord} {i : Instr} (h : decode cmd data = .ok i) :
    ∃ row ∈ opcodeRows, row.mnemonic = i.mnemonic ∧ cmd &&& row.mask = row.pattern := by
  obtain ⟨-, henc⟩ := decode_fitsWord h
  exact henc ▸ encodesToItsRow i

/-- Of all rows, exactly the one with the instruction's mnemonic selects the word. -/
theorem selects_iff_mnemonic {cmd : Word} {data : DoubleWord} {i : Instr} {row : OpcodeRow}
    (h : decode cmd data = .ok i) (hrow : row ∈ opcodeRows) :
    cmd &&& row.mask = row.pattern ↔ row.mnemonic = i.mnemonic := by
  obtain ⟨row', hrow', hname, hsel'⟩ := exists_row_of_decode h
  constructor
  · intro hsel
    rw [row_unique_of_selects hrow hrow' hsel hsel', hname]
  · intro hmn
    rw [List.inj_on_of_nodup_map opcodeRows_nodup_mnemonics hrow hrow' (hmn.trans hname.symm), hsel']

/-- A command word is illegal exactly if no row selects it (R85). -/
theorem decode_error_iff {cmd : Word} {data : DoubleWord} :
    (∃ e, decode cmd data = .error e) ↔ ∀ row ∈ opcodeRows, cmd &&& row.mask ≠ row.pattern := by
  constructor
  · rintro ⟨e, he⟩ row hrow hsel
    obtain ⟨f, hf⟩ := opcodeRows_decode row hrow cmd hsel
    cases he.symm.trans (hf data)
  · intro hnone
    cases hd : decode cmd data with
    | error e => exact ⟨e, rfl⟩
    | ok i =>
      obtain ⟨row, hrow, -, hsel⟩ := exists_row_of_decode hd
      exact absurd hsel (hnone row hrow)

/-- Settles O3: the table's facts are computed, and the rest is `decode_fitsWord`, `selects_iff_mnemonic` and
`decode_error_iff`. -/
theorem commandWordIsOneRowOrIllegal : Obligations.CommandWordIsOneRowOrIllegal :=
  ⟨rfl, List.pairwise_map.1 opcodeRows_nodup_opcodes, fun _ _ =>
    ⟨fun _ h => ⟨(decode_fitsWord h).1, fun _ hrow => selects_iff_mnemonic h hrow⟩, decode_error_iff⟩⟩

/-! ### A command at the port (R80, R85) -/

/-- A command is taken off the inputs and run, when the machine has not stopped and no pass is due (R217, R219). -/
theorem step_command {s : State} {cmd : Word} {data : DoubleWord} {rest : List Input} (hf : s.fault = none)
    (hc : configOk s.cfg = true) (hdue : ∀ T ∈ s.vct, T.deadline ≠ some s.now)
    (hin : s.inputs = .command cmd data :: rest) : step s = runCommand cmd data (s.setInputs rest) := by
  have hnd : anyDue (s.setInputs rest) = false := anyDue_eq_false_iff.2 hdue
  simp [step, hf, hc, hin, inputStep, commandStep, hnd]

theorem runCommand_of_error {cmd : Word} {data : DoubleWord} {e : Illegal} (s : State)
    (h : decode cmd data = .error e) : runCommand cmd data s = .next (s.faulted (.illegalCmd cmd)) := by
  rw [runCommand, h, raise_eq_faulted]

/-- Settles O6: a word that no row selects does not decode, and the port raises `ILLEGAL_CMD`. -/
theorem illegalWordFaults : Obligations.IllegalWordFaults := by
  intro s cmd data rest hf hc hdue hin hnone
  obtain ⟨e, he⟩ := decode_error_iff (data := data).2 hnone
  refine ⟨?_, rfl⟩
  rw [step_command hf hc hdue hin, runCommand_of_error _ he, faulted_of_fault_none (s := s.setInputs rest) _ hf]
  rfl

end Sys2Proof.Machine
end

/-! SUPPORT. The ClockControl operations (`spec/40_clockcontrol.md`): past the index check each stores one raw value or
answers a field of it, so its next state is `withUnit_done` and what is left is bits (O19 to O21). -/

namespace Sys2Proof.Machine

/-! ### A command word by its fields, and a command that completes or faults (R11, R61, R84) -/

/-- A command word written as in R84 decodes by its fields. -/
theorem decode_cmdOf {pattern k op sub idx : Nat} (hp : pattern = k * 2 ^ 28 + op * 2 ^ 24) (hk : k < 16)
    (ho : op < 16) (hs : sub < 256) (hi : idx < 65536) (data : DoubleWord) :
    decode (cmdOf pattern sub idx) data = decodeFields k op sub idx data := by
  rw [cmdOf_eq_cmdWord hp ho hs hi, decode_cmdWord hk ho hs hi]

/-- An operation that completes whenever its index is inside the space faults otherwise. -/
theorem withUnit_done (space : IndexSpace) (i : Nat) (v : DoubleWord) (s u : State) :
    withUnit space i s (done v u)
      = .next (if i < unitCount s.cfg space then u.setResp (some v) else s.faulted (.prgId space i)) := by
  split
  · next hlt => rw [withUnit_of_lt hlt, done_eq]
  · next hge => exact withUnit_of_le (Nat.le_of_not_lt hge)

/-! ### The response words (R83) -/

theorem respWord_eq_ofNat (v : Word) : respWord v = BitVec.ofNat 64 v.toNat := (BitVec.ofNat_toNat 64 v).symm

theorem respByte_eq_ofNat (v : Byte) : respByte v = BitVec.ofNat 64 v.toNat := (BitVec.ofNat_toNat 64 v).symm

theorem respBool_eq_ite (b : Bool) : respBool b = if b then 1#64 else 0#64 := by cases b <;> rfl

/-! ### The fields of a ClockControl value (R100) -/

theorem not_clcDisr_iff (v : Word) : (!clcDisr v) = true ↔ v.toNat % 2 = 0 := by
  simp [clcDisr, clcDisrBit, BitVec.getLsbD, Nat.testBit_zero]

theorem clcPresc_toNat (v : Word) : (clcPresc v).toNat = v.toNat / 2 ^ 8 % 2 ^ 8 := by
  rw [clcPresc, BitVec.extractLsb'_toNat, clcPrescLow, Nat.shiftRight_eq_div_pow]

/-- The disable status is the disable request, and every other bit is as written (R102). -/
theorem clcWithStatus_getLsbD (v : Word) {j : Nat} (hj : j < 32) :
    (clcWithStatus v).getLsbD j = v.getLsbD (if j = 1 then 0 else j) := by
  have hmask : (BitVec.twoPow 32 clcDissBit).getLsbD j = decide (j = 1) := by
    simp [BitVec.getLsbD_twoPow, clcDissBit, eq_comm]
  have hsrc : v.getLsbD (if j = 1 then 0 else j) = if j = 1 then clcDisr v else v.getLsbD j := apply_ite _ _ _ _
  rw [hsrc, clcWithStatus]
  split
  · next hd =>
    rw [BitVec.getLsbD_or, hmask, hd]
    by_cases h1 : j = 1 <;> simp [h1]
  · next hd =>
    rw [BitVec.getLsbD_and, BitVec.getLsbD_not, hmask, Bool.eq_false_iff.mpr hd]
    by_cases h1 : j = 1 <;> simp [h1, hj]

/-! ### The operations -/

section
variable {c : Nat} (hc : c < 65536) (data : DoubleWord)
include hc

theorem decode_clcInit : decode (cmdOf 0x00000000 0 c) data = .ok (.clcInit c) :=
  decode_cmdOf (k := 0) (op := 0) rfl (by decide) (by decide) (by decide) hc data

theorem decode_clcSet : decode (cmdOf 0x01000000 0 c) data = .ok (.clcSet c (dataWord data)) :=
  decode_cmdOf (k := 0) (op := 1) rfl (by decide) (by decide) (by decide) hc data

theorem decode_clcGet : decode (cmdOf 0x02000000 0 c) data = .ok (.clcGet c) :=
  decode_cmdOf (k := 0) (op := 2) rfl (by decide) (by decide) (by decide) hc data

theorem decode_clcIsen : decode (cmdOf 0x03000000 0 c) data = .ok (.clcIsen c) :=
  decode_cmdOf (k := 0) (op := 3) rfl (by decide) (by decide) (by decide) hc data

theorem decode_clcGetpre : decode (cmdOf 0x04000000 0 c) data = .ok (.clcGetpre c) :=
  decode_cmdOf (k := 0) (op := 4) rfl (by decide) (by decide) (by decide) hc data

end

/-- Settles O20: the stored value is `clcWithStatus` of the operand, whose bits are `clcWithStatus_getLsbD`. -/
theorem clcSetStatusFollowsRequest : Obligations.ClcSetStatusFollowsRequest := by
  intro s c data hc
  refine ⟨decode_clcSet hc data, clcWithStatus (dataWord data), fun j hj => ?_, withUnit_done .clc c 0#64 s _⟩
  have hsrc : (if j = 1 then 0 else j) < 32 := by split <;> omega
  rw [clcWithStatus_getLsbD _ hj, dataWord, BitVec.getLsbD_extractLsb', Nat.zero_add, decide_eq_true hsrc,
    Bool.true_and]

/-- Settles O19: the store is `withUnit_done` of `CLC.INIT`. -/
theorem clcInitStoresResetPattern : Obligations.ClcInitStoresResetPattern := fun s c data hc =>
  ⟨decode_clcInit hc data, withUnit_done .clc c 0#64 s _⟩

/-- Settles O21: each read is `withUnit_done` with no effect, and its answer is a field of the raw value. -/
theorem clcReadsAnswerFields : Obligations.ClcReadsAnswerFields := by
  intro s c data hc
  refine ⟨⟨decode_clcGet hc data, ?_⟩, ⟨decode_clcIsen hc data, ?_⟩, decode_clcGetpre hc data, ?_⟩
  · rw [← respWord_eq_ofNat]
    exact withUnit_done .clc c _ s s
  · simp only [← not_clcDisr_iff, ← respBool_eq_ite]
    exact withUnit_done .clc c _ s s
  · rw [← clcPresc_toNat, ← respByte_eq_ofNat]
    exact withUnit_done .clc c _ s s

end Sys2Proof.Machine

/-! SUPPORT. The RequestLine (`spec/41_requestline.md`): a write stores the record and delivers a flip of the level (O23
to O26), and so the deliveries of every source, bank lines included, alternate along every step (O53). -/

namespace Sys2Proof.Machine

/-! ### The sources of deliveries (R111, R125, R210) -/

/-- What delivers to a sink: a RequestLine, or line `j` of bank `b`. -/
inductive Source where
  | srl (r : Nat)
  | srb (b j : Nat)

/-- The configuration has the source. -/
def Source.Exists (cfg : Config) : Source → Prop
  | .srl r => r < cfg.nSRL
  | .srb b j => b < cfg.nSRB ∧ j < (bankConfig cfg b).nOut

/-- The sink of a source (R210). -/
def Source.sink (cfg : Config) : Source → Sink
  | .srl r => sinkOfSrl cfg r
  | .srb b j => bankSink (bankConfig cfg b) j

/-- The level a source last delivered (R24, R25). -/
def Source.latch (s : State) : Source → Bool
  | .srl r => (s.srlAt r).deliveredState
  | .srb b j => (s.srbAt b).deliveredPerLine[j]?.getD false

/-- The source is there, and no other source drives its sink. -/
structure Source.Exclusive (cfg : Config) (c : Source) : Prop where
  exist : c.Exists cfg
  single : (allSinks cfg).count (c.sink cfg) = 1

theorem deliveriesOk_iff {s : State} : DeliveriesOk s
    ↔ ∀ c : Source, c.Exclusive s.cfg → HistoryOk (deliveriesTo (c.sink s.cfg) s.trace) (c.latch s) := by
  constructor
  · rintro ⟨hsrl, hsrb⟩ c ⟨hexist, hsingle⟩
    cases c with
    | srl r => exact hsrl r hexist hsingle
    | srb b j =>
      obtain ⟨hb, hj⟩ := hexist
      exact hsrb b hb j hj hsingle
  · intro h
    exact ⟨fun r hr hsingle => h (.srl r) ⟨hr, hsingle⟩, fun b hb j hj hsingle => h (.srb b j) ⟨⟨hb, hj⟩, hsingle⟩⟩

/-- A list is its entries by number. -/
theorem map_getD_range_eq {α : Type} (xs : List α) (d : α) {n : Nat} (hn : xs.length = n) :
    (List.range n).map (fun i => xs[i]?.getD d) = xs := by
  subst hn
  refine List.ext_getElem (by simp) fun i _ hi => ?_
  simp [hi]

/-- Every source of the configuration. -/
def sources (cfg : Config) : List Source :=
  (List.range cfg.nSRL).map .srl
    ++ (List.range cfg.nSRB).flatMap fun b => (List.range (bankConfig cfg b).nOut).map (.srb b)

theorem mem_sources {cfg : Config} {c : Source} (h : c.Exists cfg) : c ∈ sources cfg := by
  cases c with
  | srl r => simpa [sources, Source.Exists] using h
  | srb b j => simpa [sources, Source.Exists] using h

/-- A bank has one sink record a line (R211). -/
theorem bankSinks_eq {cfg : Config} (h : configOk cfg = true) {bc : BankConfig} (hbc : bc ∈ cfg.banks) :
    (List.range bc.nOut).map (bankSink bc) = bc.sinks := by
  simp only [configOk, Bool.and_eq_true, List.all_eq_true] at h
  obtain ⟨⟨⟨⟨-, hbanks⟩, -⟩, -⟩, -⟩ := h
  have hok := hbanks bc hbc
  simp only [bankOk, Bool.and_eq_true, decide_eq_true_eq] at hok
  obtain ⟨⟨⟨-, hlen⟩, -⟩, -⟩ := hok
  exact map_getD_range_eq bc.sinks _ hlen

/-- The sinks of a well-formed configuration are those of its sources. -/
theorem allSinks_eq {cfg : Config} (h : configOk cfg = true) : allSinks cfg = (sources cfg).map (·.sink cfg) := by
  obtain ⟨hsrl, hsrb, -⟩ := recordsPresent_of_configOk h
  have hlines : (List.range cfg.nSRL).map (sinkOfSrl cfg) = cfg.sinkSRL := map_getD_range_eq cfg.sinkSRL _ hsrl
  have hbanks : (List.range cfg.nSRB).map (bankConfig cfg) = cfg.banks := map_getD_range_eq cfg.banks _ hsrb
  have hsinks : cfg.banks.flatMap (·.sinks) = cfg.banks.flatMap fun bc => (List.range bc.nOut).map (bankSink bc) :=
    List.flatMap_congr fun bc hbc => (bankSinks_eq h hbc).symm
  rw [allSinks, hsinks, ← hbanks, ← hlines]
  simp [sources, List.map_flatMap, List.flatMap_map, Function.comp_def, Source.sink]

/-- An exclusive source shares its sink with no other source. -/
theorem Source.Exclusive.eq {cfg : Config} (hcfg : configOk cfg = true) {c c' : Source} (h : c.Exclusive cfg)
    (h' : c'.Exists cfg) (hsink : c'.sink cfg = c.sink cfg) : c' = c := by
  by_contra hne
  have hsub : List.Subperm [c', c] (sources cfg) :=
    List.subperm_of_subset (by simpa using hne) (by simp [mem_sources h', mem_sources h.exist])
  have hle := hsub.countP_le fun a => a.sink cfg == c.sink cfg
  have hone := h.single
  rw [allSinks_eq hcfg, List.count, List.countP_map] at hone
  rw [show (fun a : Source => a.sink cfg == c.sink cfg) = (· == c.sink cfg) ∘ (·.sink cfg) from rfl, hone] at hle
  simp [hsink] at hle

/-! ### The levels delivered to a sink -/

/-- The levels that the deliveries `ds` bring to a sink. -/
def levelsTo (sink : Sink) (ds : List (Sink × Nat)) : List Bool :=
  ds.filterMap fun d => if d.1 = sink then some (decide (d.2 ≠ 0)) else none

theorem deliveriesTo_append (sink : Sink) (xs ys : List Event) :
    deliveriesTo sink (xs ++ ys) = deliveriesTo sink xs ++ deliveriesTo sink ys := List.filterMap_append ..

theorem deliveriesTo_filter_isDeliver (sink : Sink) (tr : List Event) :
    deliveriesTo sink (tr.filter Event.isDeliver) = deliveriesTo sink tr := by
  rw [deliveriesTo, List.filterMap_filter, deliveriesTo]
  refine List.filterMap_congr fun e _ => ?_
  cases e <;> rfl

theorem deliveriesTo_map_deliver (sink : Sink) (ds : List (Sink × Nat)) :
    deliveriesTo sink (ds.map fun d => .deliver d.1 d.2) = levelsTo sink ds := List.filterMap_map ..

theorem levelsTo_append (sink : Sink) (ds es : List (Sink × Nat)) :
    levelsTo sink (ds ++ es) = levelsTo sink ds ++ levelsTo sink es := List.filterMap_append ..

theorem levelsTo_of_ne {sink : Sink} {ds : List (Sink × Nat)} (h : ∀ d ∈ ds, d.1 ≠ sink) : levelsTo sink ds = [] :=
  List.filterMap_eq_nil_iff.mpr fun d hd => if_neg (h d hd)

/-- The deliveries on record of a sink, after the deliveries `ds`. -/
theorem Delivered.deliveriesTo_trace {ds : List (Sink × Nat)} {s t : State} (h : Delivered ds s t) (sink : Sink) :
    deliveriesTo sink t.trace = deliveriesTo sink s.trace ++ levelsTo sink ds := by
  obtain ⟨es, hes⟩ := h.grows
  have hdel := h.delivers
  rw [newEvents_eq hes.symm] at hdel
  rw [← hes, deliveriesTo_append, ← deliveriesTo_filter_isDeliver sink es, hdel, deliveriesTo_map_deliver]

/-- What a bank delivers to one of its lines below `n`, if the others have other sinks: a flip of the line. -/
theorem levelsTo_bankDeliveries {bc : BankConfig} {j : Nat} (act : Word) (latch : List Bool) {n : Nat}
    (hj : ∀ k < n, bankSink bc k = bankSink bc j → k = j) :
    levelsTo (bankSink bc j) (bankDeliveries bc act latch n)
      = if n ≤ j ∨ decide (LineActive bc act j) = latch[j]?.getD false then [] else [decide (LineActive bc act j)] := by
  induction n with
  | zero => simp [bankDeliveries, levelsTo]
  | succ n ih =>
    rw [bankDeliveries_succ, levelsTo_append, ih fun k hk => hj k (by omega)]
    by_cases hjn : n = j
    · subst hjn
      by_cases ha : LineActive bc act n <;> by_cases hl : latch[n]?.getD false = true <;>
        simp [ha, hl, levelsTo]
    · have hother : bankSink bc n ≠ bankSink bc j := fun he => hjn (hj n (by omega) he)
      have hle : n ≤ j ↔ n + 1 ≤ j := by omega
      refine (List.append_right_eq_self.mpr ?_).trans (if_congr (or_congr_left hle) rfl rfl)
      split
      · rfl
      · simp [levelsTo, hother]

/-! ### A history continued -/

/-- Between two states the source delivered exactly a flip of its latch, if there was one (R111, R125). -/
def Source.Follows (c : Source) (s t : State) : Prop :=
  deliveriesTo (c.sink s.cfg) t.trace
    = deliveriesTo (c.sink s.cfg) s.trace ++ if c.latch t = c.latch s then [] else [c.latch t]

/-- A history that ends at a level goes on with a flip of that level. -/
theorem HistoryOk.flip {levels : List Bool} {old new : Bool} (h : HistoryOk levels old) :
    HistoryOk (levels ++ if new = old then [] else [new]) new := by
  obtain ⟨halt, hlast⟩ := h
  split
  · next heq => subst heq; simpa using ⟨halt, hlast⟩
  · next hne =>
    refine ⟨?_, by rw [getLastD_append]; rfl⟩
    rw [alternatesFrom_append, halt, Bool.not_true, hlast]
    cases new <;> cases old <;> simp_all [alternatesFrom]

/-- Every exclusive source that follows its latch keeps its history. -/
theorem DeliveriesOk.follows {s t : State} (h : DeliveriesOk s) (hc : t.cfg = s.cfg)
    (hf : ∀ c : Source, c.Exclusive s.cfg → c.Follows s t) : DeliveriesOk t := by
  rw [deliveriesOk_iff] at h ⊢
  rw [hc]
  intro c hex
  rw [hf c hex]
  exact (h c hex).flip

/-- Without a delivery, and with the latches as they were, the histories stay. -/
theorem DeliveriesOk.congr {s t : State} (h : DeliveriesOk s) (hc : t.cfg = s.cfg) (hsrl : t.srl = s.srl)
    (hsrb : t.srb = s.srb) (ht : ∀ sink, deliveriesTo sink t.trace = deliveriesTo sink s.trace) : DeliveriesOk t := by
  refine h.follows hc fun c _ => ?_
  have hlatch : c.latch t = c.latch s := by cases c <;> simp [Source.latch, State.srlAt, State.srbAt, hsrl, hsrb]
  rw [Source.Follows, ht, if_pos hlatch, List.append_nil]

/-- A source that the deliveries do not concern. -/
theorem Source.follows_of_ne {c : Source} {ds : List (Sink × Nat)} {s t : State} (hd : Delivered ds s t)
    (hlatch : c.latch t = c.latch s) (hne : ∀ d ∈ ds, d.1 ≠ c.sink s.cfg) : c.Follows s t := by
  rw [Source.Follows, hd.deliveriesTo_trace, levelsTo_of_ne hne, if_pos hlatch]

section
variable {s t : State} (hcfg : configOk s.cfg = true) {c : Source} (hex : c.Exclusive s.cfg)
include hcfg hex

/-- After a write of a RequestLine every source has delivered its flip, if any (R111). -/
theorem LineWritten.follows {r : Nat} {pending enabled : Bool} {priority : Byte}
    (hw : LineWritten r pending enabled priority s t) (hr : r < s.cfg.nSRL) : c.Follows s t := by
  obtain ⟨hself, hother, -, hd, hsrb, -⟩ := hw
  by_cases hcr : c = .srl r
  · subst hcr
    rw [Source.Follows, hd.deliveriesTo_trace]
    simp only [Source.latch, Source.sink, hself, levelsTo]
    cases (s.srlAt r).deliveredState <;> cases pending && enabled <;> simp
  · have hlatch : c.latch t = c.latch s := by
      cases c with
      | srl r' => rw [Source.latch, hother r' fun he => hcr (he ▸ rfl)]; rfl
      | srb b j => simp [Source.latch, State.srbAt, hsrb]
    refine Source.follows_of_ne hd hlatch fun d hmem hsink => hcr ?_
    split at hmem
    · cases hmem
    · rw [List.mem_singleton.mp hmem] at hsink
      exact (hex.eq hcfg (c' := .srl r) hr hsink).symm

/-- After a write of a bank every source has delivered its flip, if any (R125). -/
theorem BankWritten.follows {b : Nat} {mask rawStatus : Word} (hw : BankWritten b mask rawStatus s t)
    (hsrl : t.srl = s.srl) (hb : b < s.cfg.nSRB) : c.Follows s t := by
  obtain ⟨hself, hother, -, hd⟩ := hw
  by_cases hcb : ∃ j, c = .srb b j
  · obtain ⟨j, rfl⟩ := hcb
    obtain ⟨-, hj⟩ := hex.exist
    have huniq : ∀ k < (bankConfig s.cfg b).nOut,
        bankSink (bankConfig s.cfg b) k = bankSink (bankConfig s.cfg b) j → k = j := fun k hk hsink => by
      cases hex.eq hcfg (c' := .srb b k) ⟨hb, hk⟩ hsink
      rfl
    have hlevels := levelsTo_bankDeliveries (rawStatus &&& mask) (s.srbAt b).deliveredPerLine huniq
    have hlatch : Source.latch t (.srb b j)
        = decide (LineActive (bankConfig s.cfg b) (rawStatus &&& mask) j) := by
      rw [Source.latch, hself, List.getElem?_map, List.getElem?_range hj]
      rfl
    rw [Source.Follows, hd.deliveriesTo_trace, hlatch]
    exact congrArg _ (hlevels.trans (if_congr (or_iff_right (Nat.not_le.mpr hj)) rfl rfl))
  · have hlatch : c.latch t = c.latch s := by
      cases c with
      | srl r => simp [Source.latch, State.srlAt, hsrl]
      | srb b' j => rw [Source.latch, hother b' fun he => hcb ⟨j, he ▸ rfl⟩]; rfl
    refine Source.follows_of_ne hd hlatch fun d hmem hsink => hcb ?_
    obtain ⟨k, hk, hdk⟩ := List.mem_filterMap.mp hmem
    split at hdk
    · cases hdk
    · cases hdk
      exact ⟨k, (hex.eq hcfg (c' := .srb b k) ⟨hb, List.mem_range.mp hk⟩ hsink).symm⟩

end

/-! ### The operations of the units continue every history -/

section
variable {s : State} (h : DeliveriesOk s) (hu : UnitsOk s)
include h hu

theorem DeliveriesOk.afterSrlWrite {r : Nat} (hr : r < s.cfg.nSRL) (pending enabled : Bool) (priority : Byte) :
    DeliveriesOk (srlUpdate r (s.setSrl r
      { s.srlAt r with pending := pending, enabled := enabled, priority := priority })) :=
  h.follows (by simp) fun _ hex =>
    (srlUpdate_spec r pending enabled priority s (hu.srl.length ▸ hr)).follows hu.config hex hr

theorem DeliveriesOk.afterSrlSetPending {r : Nat} (hr : r < s.cfg.nSRL) (p : Bool) :
    DeliveriesOk (srlSetPending r p s) := h.afterSrlWrite hu hr p _ _

theorem DeliveriesOk.bankWritten {t : State} {b : Nat} {mask rawStatus : Word} (hb : b < s.cfg.nSRB)
    (hc : t.cfg = s.cfg) (hsrl : t.srl = s.srl) (hw : BankWritten b mask rawStatus s t) : DeliveriesOk t :=
  h.follows hc fun _ hex => hw.follows hu.config hex hsrl hb

theorem DeliveriesOk.afterSrbSetMaskBits {b : Nat} (hb : b < s.cfg.nSRB) (bits : Word) :
    DeliveriesOk (srbSetMaskBits b bits s) :=
  h.bankWritten hu hb (by simp) (by simp) (srbSetMaskBits_spec b bits s (hu.srb.length ▸ hb) (hu.srb.latchCount hb))

theorem DeliveriesOk.afterSrbSetRawBits {b : Nat} (hb : b < s.cfg.nSRB) (bits : Word) :
    DeliveriesOk (srbSetRawBits b bits s) :=
  h.bankWritten hu hb (by simp) (by simp) (srbSetRawBits_spec b bits s (hu.srb.length ▸ hb) (hu.srb.latchCount hb))

theorem DeliveriesOk.afterSrbClearRawBits {b : Nat} (hb : b < s.cfg.nSRB) (bits : Word) :
    DeliveriesOk (srbClearRawBits b bits s) :=
  h.bankWritten hu hb (by simp) (by simp) (srbClearRawBits_spec b bits s (hu.srb.length ▸ hb) (hu.srb.latchCount hb))

theorem DeliveriesOk.afterSrbxChange {x : Nat} (hx : x < s.cfg.nSRBX) (u : Srbx) :
    DeliveriesOk (srbxChange x u s) := by
  obtain ⟨hparent, hbit⟩ := extConfig_of_configOk hu.config hx
  obtain ⟨-, -, -, hp, -⟩ := srbxChange_spec x u s (hu.srbx.length ▸ hx) (hu.srb.length ▸ hparent)
    (hu.srb.latchCount hparent) hbit
  split at hp
  · exact h.bankWritten hu hparent (by simp) (by simp) hp
  · split at hp
    · exact h.bankWritten hu hparent (by simp) (by simp) hp
    · obtain ⟨hsrb, -, -, -, htrace⟩ := hp
      exact h.congr (by simp) (by simp) hsrb fun _ => by rw [htrace]

/-- A route continues every history (R214). -/
theorem DeliveriesOk.afterRoute {route : Route} (hr : routeOk s.cfg route = true) :
    DeliveriesOk (performRoute route s) := by
  cases route with
  | none => exact h
  | srl r => exact h.afterSrlSetPending hu (of_decide_eq_true hr) true
  | srb b bits => exact h.afterSrbSetRawBits hu (of_decide_eq_true hr) bits
  | srbx x bits => exact h.afterSrbxChange hu (of_decide_eq_true hr) _

theorem DeliveriesOk.afterFire (t : Nat) (k : Callback) : DeliveriesOk (fire t k s) := by
  have hemit : DeliveriesOk (s.emit (.fire t k)) := h.congr rfl rfl rfl fun sink => by simp [deliveriesTo]
  exact hemit.afterRoute (hu.emit _) (routeOk_of_configOk hu.config t k)

end

theorem DeliveriesOk.afterFireAll {s : State} (h : DeliveriesOk s) (hu : UnitsOk s) (t : Nat) (ks : List Callback) :
    DeliveriesOk (fireAll t ks s) := by
  induction ks generalizing s with
  | nil => exact h
  | cons k ks ih => exact ih (h.afterFire hu t k) (hu.afterFire t k)

/-- A scheduling pass continues every history (R187). -/
theorem DeliveriesOk.afterTickPass {s : State} (h : DeliveriesOk s) (hi : Inv s) {t : Nat} (ht : t < s.cfg.nVCT) :
    DeliveriesOk (tickPass t s) := by
  obtain ⟨ks, he⟩ := tickPass_eq hi ht
  rw [he]
  exact h.afterFireAll hi.units t ks

/-! ### The Arbiter delivers nothing (R152 to R156) -/

theorem deliveriesTo_edgeBetween (sink : Sink) (s t : State) (k : IrqClass) :
    deliveriesTo sink (edgeBetween s t k) = [] := by
  rw [← deliveriesTo_filter_isDeliver, filter_edgeBetween]
  rfl

theorem DeliveriesOk.afterSetLevel {s : State} (h : DeliveriesOk s) (id : Nat) (cls : IrqClass) (p n : Byte)
    (l : Bool) : DeliveriesOk (setLevel id cls p n l s) :=
  h.congr (by simp) (by simp) (by simp) fun sink => by
    simp [setLevel_trace, deliveriesTo_append, deliveriesTo_edgeBetween]

theorem DeliveriesOk.afterArbitrate {s : State} (h : DeliveriesOk s) (k : IrqClass) : DeliveriesOk (arbitrate k s) :=
  h.congr (by simp) (by simp) (by simp) fun sink => by
    simp [arbitrate_trace, deliveriesTo_append, deliveriesTo_edgeBetween]

theorem DeliveriesOk.setClass {s : State} (h : DeliveriesOk s) (k : IrqClass) (u : ArbClass) :
    DeliveriesOk (s.setClass k u) := h.congr (by simp) (by simp) (by simp) fun _ => by simp

theorem DeliveriesOk.afterRearbitrate {s : State} (h : DeliveriesOk s) (k : IrqClass) :
    DeliveriesOk (rearbitrate k s) := by
  unfold rearbitrate
  split
  · exact h.afterArbitrate k
  · exact h

theorem DeliveriesOk.afterTake {s : State} (h : DeliveriesOk s) (k : IrqClass) : DeliveriesOk (takeLine k s) := by
  obtain ⟨i, -, -, ht⟩ | ⟨-, hs⟩ := takeLine_spec k s
  · exact h.congr (by simp) (by simp) (by simp) fun sink => by simp [ht, deliveriesTo]
  · exact hs.symm ▸ h

theorem DeliveriesOk.afterAck {s : State} (h : DeliveriesOk s) (k : IrqClass) (i : Nat) :
    DeliveriesOk (ackLine k i s) := by
  have hconsumed : DeliveriesOk (consumeLine k i s) := h.congr (by simp) (by simp) (by simp) fun _ => by simp
  exact (hconsumed.setClass k _).afterArbitrate k

/-! ### Commands and steps -/

/-- A command ends in a state whose histories are those of its sources. -/
inductive KeepsHistories : Result → Prop
  | next (u : State) (h : DeliveriesOk u) : KeepsHistories (.next u)

theorem ite_histories {c : Prop} [Decidable c] {a b : Result} (ha : KeepsHistories a) (hb : KeepsHistories b) :
    KeepsHistories (if c then a else b) := by
  split
  · exact ha
  · exact hb

/-- The histories do not read the response word. -/
theorem done_histories {u : State} (v : DoubleWord) (h : DeliveriesOk u) : KeepsHistories (done v u) := .next _ h

section
variable {s : State} (h : DeliveriesOk s)
include h

/-- A faulting command has no events (R230). -/
theorem raise_histories (r : FaultRecord) : KeepsHistories (.next (raise r s)) := .next _ h

theorem withUnit_histories {space : IndexSpace} {n : Nat} {body : Result}
    (hbody : n < unitCount s.cfg space → KeepsHistories body) : KeepsHistories (withUnit space n s body) := by
  unfold withUnit
  split
  · exact raise_histories h _
  · exact hbody (by omega)

theorem execArbAck_histories (k : IrqClass) : KeepsHistories (execArbAck k s) := by
  unfold execArbAck
  split
  · exact raise_histories h _
  · exact done_histories _ (h.afterAck k _)

/-- Every command keeps the histories. -/
theorem exec_histories (hi : Inv s) (i : Instr) : KeepsHistories (exec i s) := by
  have hu := hi.units
  cases i with
  | clcInit | clcSet | clcGet | clcIsen | clcGetpre | srlGet | srbGetmask | srbGetraw | srbGetmis | srbxGetmask
  | srbxGetraw | srbxGetmis | vctReset | vctSetfreq | vctGetcnt | vctNext =>
    exact withUnit_histories h fun _ => done_histories _ h
  | srlSet => exact withUnit_histories h fun hr => done_histories _ (h.afterSrlWrite hu hr ..)
  | srlAssert | srlClear => exact withUnit_histories h fun hr => done_histories _ (h.afterSrlSetPending hu hr _)
  | srbSetmask => exact withUnit_histories h fun hb => done_histories _ (h.afterSrbSetMaskBits hu hb _)
  | srbSetraw => exact withUnit_histories h fun hb => done_histories _ (h.afterSrbSetRawBits hu hb _)
  | srbClearraw => exact withUnit_histories h fun hb => done_histories _ (h.afterSrbClearRawBits hu hb _)
  | srbxSetmask | srbxSetraw | srbxClearraw =>
    exact withUnit_histories h fun hx => done_histories _ (h.afterSrbxChange hu hx _)
  | arbSetlevel => exact withUnit_histories h fun _ => done_histories _ (h.afterSetLevel ..)
  | arbTake k => exact done_histories _ (h.afterTake k)
  | arbAck k => exact execArbAck_histories h k
  | arbSetmask k => exact done_histories _ ((h.setClass k _).afterRearbitrate k)
  | vctStart =>
    exact withUnit_histories h fun _ => ite_histories (done_histories _ h)
      (ite_histories (done_histories _ h) (raise_histories h _))
  | vctStop => exact withUnit_histories h fun _ => ite_histories (done_histories _ h) (done_histories _ h)
  | vctSetovf | vctSetalarm =>
    exact withUnit_histories h fun _ => ite_histories (raise_histories h _) (done_histories _ h)
  | vctTick => exact withUnit_histories h fun ht => done_histories _ (h.afterTickPass hi ht)

end

/-- After reset nothing is delivered and every latch is 0 (R36, R261). -/
theorem resetOf_deliveriesOk (cfg : Config) : DeliveriesOk (State.resetOf cfg) := by
  refine deliveriesOk_iff.mpr fun c _ => ⟨rfl, ?_⟩
  have hlatch : c.latch (State.resetOf cfg) = false := by
    cases c with
    | srl r => rw [Source.latch, resetOf_srlAt]; rfl
    | srb b j =>
      rw [Source.latch, resetOf_srbAt]
      by_cases hj : j < (bankConfig cfg b).nOut <;> simp [Srb.reset, hj]
  rw [hlatch]
  rfl

/-- Settles O53: each kind of step (`step_cases`) continues the histories; a command by `exec_histories`, a pass by
`DeliveriesOk.afterTickPass`, and a fault and a clock step deliver nothing. -/
theorem deliveriesAlternate : Obligations.DeliveriesAlternate := by
  refine ⟨fun cfg _ => resetOf_deliveriesOk cfg, fun s t hi h hstep => ?_⟩
  obtain ⟨-, -, m, rest, -, ⟨cmd, data, -, -, ⟨i, -, hx⟩ | ⟨e, -, rfl⟩⟩ | ⟨d, -, -, rfl⟩ | ⟨n, -, hn, rfl⟩⟩ :=
    step_cases hstep
  · have hkeeps := exec_histories (s := s.setInputs rest) h (hi.setInputs rest) i
    rw [hx] at hkeeps
    cases hkeeps with
    | next _ ht => exact ht
  · exact h
  · exact h
  · exact DeliveriesOk.afterTickPass (s := s.setInputs rest) h (hi.setInputs rest)
      (hi.timersOk.length ▸ (isDue_iff.mp hn).1)

/-! ### The RequestLine's commands -/

section
variable {r : Nat} (hr : r < 65536) (data : DoubleWord)
include hr

theorem decode_srlSet : decode (cmdOf 0x11000000 0 r) data = .ok (.srlSet r (dataHalf data)) :=
  decode_cmdOf (k := 1) (op := 1) rfl (by decide) (by decide) (by decide) hr data

theorem decode_srlGet : decode (cmdOf 0x12000000 0 r) data = .ok (.srlGet r) :=
  decode_cmdOf (k := 1) (op := 2) rfl (by decide) (by decide) (by decide) hr data

theorem decode_srlAssert : decode (cmdOf 0x13000000 0 r) data = .ok (.srlAssert r) :=
  decode_cmdOf (k := 1) (op := 3) rfl (by decide) (by decide) (by decide) hr data

theorem decode_srlClear : decode (cmdOf 0x14000000 0 r) data = .ok (.srlClear r) :=
  decode_cmdOf (k := 1) (op := 4) rfl (by decide) (by decide) (by decide) hr data

end

/-- `Delivered` does not read the response word. -/
theorem Delivered.respond {ds : List (Sink × Nat)} {s t : State} (h : Delivered ds s t) (v : DoubleWord) :
    Delivered ds s (respond v t) :=
  ⟨h.length, h.lines, h.filters, h.classes, h.grows, h.delivers, h.noFire⟩

theorem LineWritten.respond {r : Nat} {pending enabled : Bool} {priority : Byte} {s t : State}
    (h : LineWritten r pending enabled priority s t) (v : DoubleWord) :
    LineWritten r pending enabled priority s (respond v t) := by
  obtain ⟨hself, hother, hlen, hd, hrest⟩ := h
  exact ⟨hself, hother, hlen, hd.respond v, hrest⟩

/-- A command that writes a RequestLine answers 0 with the line written, or faults on its index (R61). -/
theorem srlCommand_ends {r : Nat} {pending enabled : Bool} {priority : Byte} {s u : State}
    (hw : r < s.cfg.nSRL → LineWritten r pending enabled priority s u) :
    ∃ t, withUnit .srl r s (done 0#64 u) = .next t
      ∧ (r < s.cfg.nSRL → t.resp = some 0#64 ∧ LineWritten r pending enabled priority s t)
      ∧ (s.cfg.nSRL ≤ r → t = s.faulted (.prgId .srl r)) := by
  by_cases hr : r < s.cfg.nSRL
  · exact ⟨_, withUnit_of_lt (space := .srl) hr, fun _ => ⟨rfl, (hw hr).respond 0#64⟩,
      fun hge => absurd hr (Nat.not_lt.mpr hge)⟩
  · exact ⟨_, withUnit_of_le (space := .srl) (Nat.le_of_not_lt hr), fun hlt => absurd hlt hr, fun _ => rfl⟩

/-! ### The fields of a RequestLine value (R110) -/

theorem srlPrio_dataHalf (data : DoubleWord) : srlPrio (dataHalf data) = data.extractLsb' 0 8 := by
  refine BitVec.eq_of_getLsbD_eq fun i hi => ?_
  simp [srlPrio, srlPrioLow, dataHalf, hi]

theorem srlEn_dataHalf (data : DoubleWord) : srlEn (dataHalf data) = data.getLsbD 12 := by
  simp [srlEn, srlEnBit, dataHalf]

/-- `SETR` alone sets the request flag, `CLRR` alone clears it; otherwise `PEND` is stored (R112). -/
theorem srlFoldPending_dataHalf (data : DoubleWord) : srlFoldPending (dataHalf data)
    = if data.getLsbD 15 = true ∧ data.getLsbD 14 = false then true
      else if data.getLsbD 14 = true ∧ data.getLsbD 15 = false then false else data.getLsbD 13 := by
  have hsetr : srlSetr (dataHalf data) = data.getLsbD 15 := by simp [srlSetr, srlSetrBit, dataHalf]
  have hclrr : srlClrr (dataHalf data) = data.getLsbD 14 := by simp [srlClrr, srlClrrBit, dataHalf]
  have hpend : srlPend (dataHalf data) = data.getLsbD 13 := by simp [srlPend, srlPendBit, dataHalf]
  simp only [srlFoldPending, hsetr, hclrr, hpend, Bool.and_eq_true, Bool.not_eq_true']

/-- The response of `SRL.GET` adds the weights of the set flags (R113). -/
theorem respSrl_eq (u : Srl) : respSrl u = BitVec.ofNat 64 (u.priority.toNat
    + (if u.enabled then 2 ^ 12 else 0) + (if u.pending then 2 ^ 13 else 0)) := by
  rw [respSrl, srlPrioLow, srlEnBit, srlPendBit]
  cases u.enabled <;> cases u.pending <;> simp

/-! ### The statements -/

/-- Settles O23: the fields of the raw value are those of `DATA`, and the write is `srlUpdate_spec`. -/
theorem srlSetFoldsAndDelivers : Obligations.SrlSetFoldsAndDelivers := by
  rintro s r data ⟨-, hlen, -⟩ hr
  refine ⟨decode_srlSet hr data, srlCommand_ends fun hlt => ?_⟩
  rw [← srlFoldPending_dataHalf, ← srlEn_dataHalf, ← srlPrio_dataHalf]
  exact srlUpdate_spec r _ _ _ s (hlen ▸ hlt)

/-- Settles O24: both are `srlSetPending_spec`. -/
theorem srlAssertAndClearLatch : Obligations.SrlAssertAndClearLatch := by
  rintro s r data ⟨-, hlen, -⟩ hr
  exact ⟨⟨decode_srlAssert hr data, srlCommand_ends fun hlt => srlSetPending_spec r true s (hlen ▸ hlt)⟩,
    decode_srlClear hr data, srlCommand_ends fun hlt => srlSetPending_spec r false s (hlen ▸ hlt)⟩

/-- Settles O25: a read is `withUnit_done` with no effect. -/
theorem srlGetAnswersFields : Obligations.SrlGetAnswersFields := by
  intro s r data hr
  refine ⟨decode_srlGet hr data, ?_⟩
  rw [← respSrl_eq]
  exact withUnit_done .srl r _ s s

/-- The raw value with `SETR` and `EN` set and the priority given (R110). -/
theorem setrEn_fields (p : Byte) : srlPrio (0x90#8 ++ p) = p ∧ srlEn (0x90#8 ++ p) = true
    ∧ srlFoldPending (0x90#8 ++ p) = true := by
  have hbit : ∀ i, 8 ≤ i → (0x90#8 ++ p).getLsbD i = (0x90#8).getLsbD (i - 8) := fun i hi => by
    rw [BitVec.getLsbD_append, if_neg (Nat.not_lt.mpr hi)]
  have hen : srlEn (0x90#8 ++ p) = true := hbit 12 (by decide)
  have hsetr : srlSetr (0x90#8 ++ p) = true := hbit 15 (by decide)
  have hclrr : srlClrr (0x90#8 ++ p) = false := hbit 14 (by decide)
  exact ⟨BitVec.extractLsb'_append_eq_right, hen, by rw [srlFoldPending, hsetr, hclrr]; rfl⟩

/-- Settles O26: the record written has its latch at its level, so `srlUpdate_of_latched` delivers nothing. -/
theorem srlPriorityChangeNotForwarded : Obligations.SrlPriorityChangeNotForwarded := by
  rintro s r p ⟨-, hlen, -⟩ hr - - hdel
  obtain ⟨hprio, hen, hpend⟩ := setrEn_fields p
  refine (withUnit_of_lt (space := .srl) hr).trans ?_
  simp only [hprio, hen, hpend, hdel]
  rw [srlUpdate_of_latched]
  · rfl
  · rw [srlAt_setSrl_self _ _ (hlen ▸ hr)]
    rfl

end Sys2Proof.Machine

/-! SUPPORT. The RequestBank and its extension (`spec/42_requestbank.md`): a bank's write is `srbUpdate_spec`, an
extension's is `srbxChange_spec`, and an extension whose aggregate stays is written and nothing else (O27 to O31). -/

namespace Sys2Proof.Machine

/-! ### A command that answers 0 or faults on its index (R61) -/

/-- Whatever holds of the state the operation leaves, its answer given, holds of the command's next state. -/
theorem withUnit_write_ends {space : IndexSpace} {i : Nat} {s u : State} {P : State → Prop}
    (hw : i < unitCount s.cfg space → P (respond 0#64 u)) :
    ∃ t, withUnit space i s (done 0#64 u) = .next t ∧ (i < unitCount s.cfg space → P t)
      ∧ (unitCount s.cfg space ≤ i → t = s.faulted (.prgId space i)) := by
  by_cases hi : i < unitCount s.cfg space
  · exact ⟨_, withUnit_of_lt hi, hw, fun hge => absurd hi (Nat.not_lt.mpr hge)⟩
  · exact ⟨_, withUnit_of_le (Nat.le_of_not_lt hi), fun hlt => absurd hlt hi, fun _ => rfl⟩

/-- `BankWritten` does not read the response word. -/
theorem BankWritten.respond {b : Nat} {mask rawStatus : Word} {s t : State} (h : BankWritten b mask rawStatus s t)
    (v : DoubleWord) : BankWritten b mask rawStatus s (respond v t) := by
  obtain ⟨hself, hother, hlen, hd⟩ := h
  exact ⟨hself, hother, hlen, hd.respond v⟩

/-- `ExtensionWritten` does not read the response word, in any of R135's three cases. -/
theorem ExtensionWritten.respond {x : Nat} {u : Srbx} {s t : State} (h : ExtensionWritten x u s t) (v : DoubleWord) :
    ExtensionWritten x u s (respond v t) := by
  obtain ⟨hself, hother, hlen, hparent, hrest⟩ := h
  refine ⟨hself, hother, hlen, ?_, hrest⟩
  split at hparent
  · next hrises => exact (if_pos hrises).mpr (hparent.respond v)
  · next hrises =>
    refine (if_neg hrises).mpr ?_
    split at hparent
    · next hfalls => exact (if_pos hfalls).mpr (hparent.respond v)
    · next hfalls => exact (if_neg hfalls).mpr hparent

/-! ### The commands of a bank -/

section
variable {b : Nat} (hb : b < 65536) (data : DoubleWord)
include hb

theorem decode_srbSetmask : decode (cmdOf 0x21000000 0 b) data = .ok (.srbSetmask b (dataWord data)) :=
  decode_cmdOf (k := 2) (op := 1) rfl (by decide) (by decide) (by decide) hb data

theorem decode_srbSetraw : decode (cmdOf 0x22000000 0 b) data = .ok (.srbSetraw b (dataWord data)) :=
  decode_cmdOf (k := 2) (op := 2) rfl (by decide) (by decide) (by decide) hb data

theorem decode_srbClearraw : decode (cmdOf 0x23000000 0 b) data = .ok (.srbClearraw b (dataWord data)) :=
  decode_cmdOf (k := 2) (op := 3) rfl (by decide) (by decide) (by decide) hb data

theorem decode_srbGetmask : decode (cmdOf 0x24000000 0 b) data = .ok (.srbGetmask b) :=
  decode_cmdOf (k := 2) (op := 4) rfl (by decide) (by decide) (by decide) hb data

theorem decode_srbGetraw : decode (cmdOf 0x25000000 0 b) data = .ok (.srbGetraw b) :=
  decode_cmdOf (k := 2) (op := 5) rfl (by decide) (by decide) (by decide) hb data

theorem decode_srbGetmis : decode (cmdOf 0x26000000 0 b) data = .ok (.srbGetmis b) :=
  decode_cmdOf (k := 2) (op := 6) rfl (by decide) (by decide) (by decide) hb data

end

/-- A command that writes a bank answers 0 with the bank written and all but the Arbiter kept, or faults on its index
(R61, R125). -/
theorem srbCommand_ends {b : Nat} {mask rawStatus : Word} {s u : State}
    (hw : b < s.cfg.nSRB → BankWritten b mask rawStatus s u) (hsrl : u.srl = s.srl) (hsrbx : u.srbx = s.srbx)
    (hrest : KeepsRest s u) :
    ∃ t, withUnit .srb b s (done 0#64 u) = .next t
      ∧ (b < s.cfg.nSRB → BankWritten b mask rawStatus s t ∧ t.srl = s.srl ∧ t.srbx = s.srbx ∧ KeepsRest s t
        ∧ t.resp = some 0#64)
      ∧ (s.cfg.nSRB ≤ b → t = s.faulted (.prgId .srb b)) :=
  withUnit_write_ends (space := .srb) fun hlt => ⟨(hw hlt).respond 0#64, hsrl, hsrbx, hrest, rfl⟩

/-- Settles O27: the three writes are `srbSetMaskBits_spec`, `srbSetRawBits_spec` and `srbClearRawBits_spec`. -/
theorem srbWritesUpdateLines : Obligations.SrbWritesUpdateLines := by
  rintro s b data ⟨-, -, hlen, -, -, -, hlatches, -⟩ hb
  refine ⟨⟨decode_srbSetmask hb data, ?_⟩, ⟨decode_srbSetraw hb data, ?_⟩, decode_srbClearraw hb data, ?_⟩
  · exact srbCommand_ends (fun hlt => srbSetMaskBits_spec b _ s (hlen ▸ hlt) (hlatches b hlt)) (by simp) (by simp)
      (by simp [KeepsRest])
  · exact srbCommand_ends (fun hlt => srbSetRawBits_spec b _ s (hlen ▸ hlt) (hlatches b hlt)) (by simp) (by simp)
      (by simp [KeepsRest])
  · exact srbCommand_ends (fun hlt => srbClearRawBits_spec b _ s (hlen ▸ hlt) (hlatches b hlt)) (by simp) (by simp)
      (by simp [KeepsRest])

/-- Settles O28: each read is `withUnit_done` with no effect. -/
theorem srbReadsAnswerFields : Obligations.SrbReadsAnswerFields := by
  intro s b data hb
  simp only [← respWord_eq_ofNat]
  exact ⟨⟨decode_srbGetmask hb data, withUnit_done .srb b _ s s⟩,
    ⟨decode_srbGetraw hb data, withUnit_done .srb b _ s s⟩, decode_srbGetmis hb data, withUnit_done .srb b _ s s⟩

/-! ### The commands of an extension -/

section
variable {x : Nat} (hx : x < 65536) (data : DoubleWord)
include hx

theorem decode_srbxSetmask : decode (cmdOf 0x31000000 0 x) data = .ok (.srbxSetmask x (dataWord data)) :=
  decode_cmdOf (k := 3) (op := 1) rfl (by decide) (by decide) (by decide) hx data

theorem decode_srbxSetraw : decode (cmdOf 0x32000000 0 x) data = .ok (.srbxSetraw x (dataWord data)) :=
  decode_cmdOf (k := 3) (op := 2) rfl (by decide) (by decide) (by decide) hx data

theorem decode_srbxClearraw : decode (cmdOf 0x33000000 0 x) data = .ok (.srbxClearraw x (dataWord data)) :=
  decode_cmdOf (k := 3) (op := 3) rfl (by decide) (by decide) (by decide) hx data

theorem decode_srbxGetmask : decode (cmdOf 0x34000000 0 x) data = .ok (.srbxGetmask x) :=
  decode_cmdOf (k := 3) (op := 4) rfl (by decide) (by decide) (by decide) hx data

theorem decode_srbxGetraw : decode (cmdOf 0x35000000 0 x) data = .ok (.srbxGetraw x) :=
  decode_cmdOf (k := 3) (op := 5) rfl (by decide) (by decide) (by decide) hx data

theorem decode_srbxGetmis : decode (cmdOf 0x36000000 0 x) data = .ok (.srbxGetmis x) :=
  decode_cmdOf (k := 3) (op := 6) rfl (by decide) (by decide) (by decide) hx data

end

/-- A command that writes an extension answers 0 with the extension written, or faults on its index (R61, R135). A
well-formed configuration gives the extension a parent that exists and implements its one bit (R211). -/
theorem srbxCommand_ends {s : State} (hcfg : configOk s.cfg = true) (hs : s.Shape) (x : Nat) (u : Srbx) :
    ∃ t, withUnit .srbx x s (done 0#64 (srbxChange x u s)) = .next t
      ∧ (x < s.cfg.nSRBX → t.resp = some 0#64 ∧ ExtensionWritten x u s t)
      ∧ (s.cfg.nSRBX ≤ x → t = s.faulted (.prgId .srbx x)) := by
  obtain ⟨-, -, hbanks, hexts, -, -, hlatches, -⟩ := hs
  refine withUnit_write_ends (space := .srbx) fun hlt => ⟨rfl, ExtensionWritten.respond ?_ 0#64⟩
  obtain ⟨hparent, hbit⟩ := extConfig_of_configOk hcfg hlt
  exact srbxChange_spec x u s (hexts ▸ hlt) (hbanks ▸ hparent) (hlatches _ hparent) hbit

/-- Settles O29: each write replaces the extension's record, which is `srbxChange_spec`. -/
theorem srbxWritesForwardAggregate : Obligations.SrbxWritesForwardAggregate := fun _ x data hcfg hs hx =>
  ⟨⟨decode_srbxSetmask hx data, srbxCommand_ends hcfg hs x _⟩,
    ⟨decode_srbxSetraw hx data, srbxCommand_ends hcfg hs x _⟩,
    decode_srbxClearraw hx data, srbxCommand_ends hcfg hs x _⟩

/-- Settles O30: each read is `withUnit_done` with no effect. -/
theorem srbxReadsAnswerFields : Obligations.SrbxReadsAnswerFields := by
  intro s x data hx
  simp only [← respWord_eq_ofNat]
  exact ⟨⟨decode_srbxGetmask hx data, withUnit_done .srbx x _ s s⟩,
    ⟨decode_srbxGetraw hx data, withUnit_done .srbx x _ s s⟩, decode_srbxGetmis hx data, withUnit_done .srbx x _ s s⟩

/-! ### An aggregate that stays (R135, R272) -/

theorem Srbx.aggregate_iff (u : Srbx) : u.aggregate = true ↔ u.rawStatus &&& u.mask ≠ 0#32 := bne_iff_ne

/-- Further events leave an aggregate that is set as it is. -/
theorem Srbx.aggregate_or {u : Srbx} (h : u.aggregate = true) (events : Word) :
    ({ u with rawStatus := u.rawStatus ||| events } : Srbx).aggregate = true := by
  rw [Srbx.aggregate_iff] at h ⊢
  intro hzero
  rw [BitVec.and_or_distrib_right, BitVec.or_eq_zero_iff] at hzero
  obtain ⟨hold, -⟩ := hzero
  exact h hold

/-- No forward happens while the aggregate stays (R135). -/
theorem srbxChange_of_aggregate_eq {x : Nat} {u : Srbx} {s : State} (h : u.aggregate = (s.srbxAt x).aggregate) :
    srbxChange x u s = s.setSrbx x u := by
  simp [srbxChange, h]

/-- Settles O31: the aggregate is set before and, by `Srbx.aggregate_or`, after, so nothing is forwarded. -/
theorem clearedParentBitStaysClear : Obligations.ClearedParentBitStaysClear := by
  intro s x bits _ hx hset
  have hbefore : (s.srbxAt x).aggregate = true := (Srbx.aggregate_iff _).mpr hset
  refine (withUnit_of_lt (space := .srbx) hx).trans ?_
  rw [srbxSetRawBits, srbxChange_of_aggregate_eq ((Srbx.aggregate_or hbefore _).trans hbefore.symm)]
  rfl

end Sys2Proof.Machine

/-! SUPPORT. The Arbiter (`spec/43_arbiter.md`): the winner of a class is unique (O32), the commands do what `setLevel`,
`takeLine`, `ackLine` and `rearbitrate` do (O33 to O36), and every edge of an output is a flip, so that edges alternate
(O52). -/

namespace Sys2Proof.Machine

/-! ### The output of a class (R29) -/

theorem ArbClass.state_of_locked {u : ArbClass} {i : Nat} (h : u.lockedLineId = some i) : u.state = .locked i := by
  rw [ArbClass.state, h]

theorem ArbClass.state_of_idle {u : ArbClass} (hl : u.lockedLineId = none) (hs : u.selectedLineId = none) :
    u.state = .idle := by
  rw [ArbClass.state, hl, hs]

theorem ArbClass.out_of_locked {u : ArbClass} {i : Nat} (h : u.lockedLineId = some i) : u.out = false := by
  rw [ArbClass.out, ArbClass.state_of_locked h]

theorem ArbClass.out_of_unlocked {u : ArbClass} (h : u.lockedLineId = none) : u.out = u.selectedLineId.isSome := by
  cases hs : u.selectedLineId with
  | none => rw [ArbClass.out, ArbClass.state_of_idle h hs]; rfl
  | some i => rw [ArbClass.out, state_eq_pending_iff.mpr ⟨h, hs⟩]; rfl

theorem respond_classAt (v : DoubleWord) (s : State) (k : IrqClass) : (respond v s).classAt k = s.classAt k :=
  classAt_setResp ..

/-! ### The filter of a class written (R156) -/

/-- What `ARB.SETMASK` does: the filter replaced, the class re-selected unless Locked. -/
def setFilter (k : IrqClass) (m : Option Byte) (s : State) : State :=
  rearbitrate k (s.setClass k { s.classAt k with maskBelowPriority := m })

theorem execArbSetmask_eq (k : IrqClass) (e : Bool) (n : Byte) (s : State) :
    execArbSetmask k e n s = done 0#64 (setFilter k (if e then some n else none) s) := rfl

theorem setFilter_lines (k : IrqClass) (m : Option Byte) (s : State) : (setFilter k m s).lines = s.lines := by
  simp [setFilter]

theorem setFilter_mask (k : IrqClass) (m : Option Byte) (s : State) :
    ((setFilter k m s).classAt k).maskBelowPriority = m := by simp [setFilter]

theorem setFilter_classAt_ne {k k' : IrqClass} (m : Option Byte) (s : State) (h : k' ≠ k) :
    (setFilter k m s).classAt k' = s.classAt k' := by
  rw [setFilter, rearbitrate_classAt_ne _ h, classAt_setClass_ne _ _ h]

/-- A filter is no part of the lock or the selection. -/
theorem setFilter_spec (k : IrqClass) (m : Option Byte) (s : State) : Rearbitrated s (setFilter k m s) k := by
  have hre := rearbitrate_spec k (s.setClass k { s.classAt k with maskBelowPriority := m })
  rw [Rearbitrated, classAt_setClass_self] at hre
  exact hre

/-- A filter is no part of the output, so the only edge is that of the re-selection. -/
theorem setFilter_trace (k : IrqClass) (m : Option Byte) (s : State) :
    (setFilter k m s).trace = s.trace ++ edgeBetween s (setFilter k m s) k := by
  have hout : (s.setClass k { s.classAt k with maskBelowPriority := m }).out k = s.out k := by
    rw [State.out, classAt_setClass_self]
    rfl
  rw [setFilter, rearbitrate_trace, setClass_trace, edgeBetween, hout]
  rfl

/-! ### What an acknowledge arbitrates (R155) -/

/-- The state in which `ARB.ACK` arbitrates: the line consumed, the lock released. -/
def releaseLine (k : IrqClass) (i : Nat) (s : State) : State :=
  (consumeLine k i s).setClass k { s.classAt k with lockedLineId := none }

theorem ackLine_eq (k : IrqClass) (i : Nat) (s : State) : ackLine k i s = arbitrate k (releaseLine k i s) := by
  rw [ackLine, releaseLine, consumeLine_classAt]

@[simp] theorem releaseLine_trace (k : IrqClass) (i : Nat) (s : State) : (releaseLine k i s).trace = s.trace := by
  simp [releaseLine]

theorem releaseLine_classAt_ne {k k' : IrqClass} (i : Nat) (s : State) (h : k' ≠ k) :
    (releaseLine k i s).classAt k' = s.classAt k' := by
  rw [releaseLine, classAt_setClass_ne _ _ h, consumeLine_classAt]

theorem releaseLine_out (k : IrqClass) (i : Nat) (s : State) :
    (releaseLine k i s).out k = (s.classAt k).selectedLineId.isSome := by
  rw [State.out, releaseLine, classAt_setClass_self]
  exact ArbClass.out_of_unlocked rfl

/-- Nothing but the line locked, and that only in its class, is consumed (R155). -/
theorem consumeLine_lines (k : IrqClass) (i : Nat) (s : State) : (consumeLine k i s).lines
    = if s.cfg.ackConsumes = true ∧ ((s.lineAt i).isFastClass = true ↔ k = .fast) then
        s.lines.set i { s.lineAt i with asserted := false } else s.lines := by
  simp only [consumeLine, Bool.and_eq_true, beq_iff_eq, cls_eq_iff]
  split <;> rfl

/-! ### A history of edges goes on with an edge (R152, R157) -/

theorem edgesOk_iff {s : State} : EdgesOk s ↔ ∀ k, HistoryOk (edgesOf k s.trace) (s.out k) := by
  refine ⟨fun ⟨hnormal, hfast⟩ k => ?_, fun h => ⟨h .normal, h .fast⟩⟩
  cases k
  · exact hnormal
  · exact hfast

/-- Without an edge, and with the outputs as they were, the histories stay. -/
theorem EdgesOk.congr {s t : State} (h : EdgesOk s) (ho : ∀ k, t.out k = s.out k)
    (ht : ∀ k, edgesOf k t.trace = edgesOf k s.trace) : EdgesOk t :=
  edgesOk_iff.mpr fun k => by
    rw [ho, ht]
    exact edgesOk_iff.mp h k

/-- The one class written has its edge if its output changed: a flip of the last one. -/
theorem EdgesOk.edge {s t : State} {k : IrqClass} (h : EdgesOk s) (ht : t.trace = s.trace ++ edgeBetween s t k)
    (hother : ∀ k', k' ≠ k → t.classAt k' = s.classAt k') : EdgesOk t := by
  refine edgesOk_iff.mpr fun k' => ?_
  have hold := edgesOk_iff.mp h k'
  rw [ht, edgesOf_append, edgesOf_edgeBetween]
  by_cases hk : k' = k
  · subst hk
    simpa using hold.flip (new := t.out k')
  · rw [if_neg fun hc => hk hc.1.symm, List.append_nil, out_congr (hother k' hk)]
    exact hold

/-! ### The operations of the Arbiter continue the edges (R152 to R156) -/

section
variable {s : State} (h : EdgesOk s)
include h

theorem EdgesOk.afterArbitrate (k : IrqClass) : EdgesOk (arbitrate k s) :=
  h.edge (arbitrate_trace k s) fun _ => arbitrate_classAt_ne s

theorem EdgesOk.afterRearbitrate (k : IrqClass) : EdgesOk (rearbitrate k s) :=
  h.edge (rearbitrate_trace k s) fun _ => rearbitrate_classAt_ne s

theorem EdgesOk.afterSetLevel (id : Nat) (cls : IrqClass) (p n : Byte) (l : Bool) :
    EdgesOk (setLevel id cls p n l s) := by
  have hline : EdgesOk (s.setLine id (newLine s.cfg.nestEnabled cls p n l)) := h
  exact (hline.afterRearbitrate .normal).afterRearbitrate .fast

/-- Pending to Locked is the falling edge (R154). -/
theorem EdgesOk.afterTake (k : IrqClass) : EdgesOk (takeLine k s) := by
  obtain ⟨i, hpending, hclass, htrace⟩ | ⟨-, hs⟩ := takeLine_spec k s
  · have hbefore : s.out k = true := by rw [State.out, ArbClass.out, hpending]
    have hafter : (takeLine k s).out k = false := by
      rw [State.out, hclass]
      exact ArbClass.out_of_locked rfl
    refine h.edge ?_ fun _ => takeLine_classAt_ne s
    rw [htrace, edgeBetween, hbefore, hafter]
    rfl
  · exact hs.symm ▸ h

/-- An acknowledge rises from the output of Locked, which is 0, as nothing is selected beside a lock (R28). -/
theorem EdgesOk.afterAck {k : IrqClass} {i : Nat} (hclass : ClassOk s k)
    (hlocked : (s.classAt k).lockedLineId = some i) : EdgesOk (ackLine k i s) := by
  obtain ⟨hone, -, -⟩ := hclass
  have hnone : (s.classAt k).selectedLineId = none := hone.resolve_left (by simp [hlocked])
  have hreleased : EdgesOk (releaseLine k i s) := by
    refine h.congr (fun k' => ?_) fun _ => by rw [releaseLine_trace]
    by_cases hk : k' = k
    · subst hk
      rw [releaseLine_out, hnone, State.out, ArbClass.out_of_locked hlocked]
      rfl
    · exact out_congr (releaseLine_classAt_ne i s hk)
  rw [ackLine_eq]
  exact hreleased.afterArbitrate k

theorem EdgesOk.afterSetFilter (k : IrqClass) (m : Option Byte) : EdgesOk (setFilter k m s) :=
  h.edge (setFilter_trace k m s) fun _ => setFilter_classAt_ne m s

/-! ### The operations of the units continue the edges, by their deliveries (R111, R125, R135, R213) -/

theorem EdgesOk.afterDeliver (sink : Sink) (v : Nat) : EdgesOk (deliver sink v s) := by
  have hemit : EdgesOk (s.emit (.deliver sink v)) := h.congr (fun k => out_emit ..) fun _ => by simp [edgesOf]
  cases sink with
  | ext n => exact hemit
  | arb id cls nest prio =>
    simp only [deliver]
    split
    · exact hemit.afterSetLevel ..
    · exact hemit.afterSetLevel ..

theorem EdgesOk.afterSrlUpdate (r : Nat) : EdgesOk (srlUpdate r s) := by
  simp only [srlUpdate]
  split
  · exact h
  · exact EdgesOk.afterDeliver (s := s.setSrl r _) h _ _

theorem EdgesOk.afterSrlSetPending (r : Nat) (p : Bool) : EdgesOk (srlSetPending r p s) :=
  EdgesOk.afterSrlUpdate (s := s.setSrl r _) h r

theorem EdgesOk.afterSrbLineUpdate (b : Nat) (act : Word) (j : Nat) : EdgesOk (srbLineUpdate b act s j) := by
  simp only [srbLineUpdate]
  split
  · exact h
  · exact EdgesOk.afterDeliver (s := s.setSrb b _) h _ _

theorem EdgesOk.afterSrbUpdate (b : Nat) : EdgesOk (srbUpdate b s) :=
  List.foldlRecOn _ _ h fun _ hu j _ => hu.afterSrbLineUpdate b _ j

theorem EdgesOk.afterSrbSetMaskBits (b : Nat) (bits : Word) : EdgesOk (srbSetMaskBits b bits s) :=
  EdgesOk.afterSrbUpdate (s := s.setSrb b _) h b

theorem EdgesOk.afterSrbSetRawBits (b : Nat) (bits : Word) : EdgesOk (srbSetRawBits b bits s) :=
  EdgesOk.afterSrbUpdate (s := s.setSrb b _) h b

theorem EdgesOk.afterSrbClearRawBits (b : Nat) (bits : Word) : EdgesOk (srbClearRawBits b bits s) :=
  EdgesOk.afterSrbUpdate (s := s.setSrb b _) h b

theorem EdgesOk.afterSrbxChange (x : Nat) (u : Srbx) : EdgesOk (srbxChange x u s) := by
  have hset : EdgesOk (s.setSrbx x u) := h
  simp only [srbxChange]
  split
  · exact hset.afterSrbSetRawBits _ _
  · split
    · exact hset.afterSrbClearRawBits _ _
    · exact hset

theorem EdgesOk.afterRoute (route : Route) : EdgesOk (performRoute route s) := by
  cases route with
  | none => exact h
  | srl r => exact h.afterSrlSetPending r true
  | srb b bits => exact h.afterSrbSetRawBits b bits
  | srbx x bits => exact h.afterSrbxChange x _

theorem EdgesOk.afterFire (t : Nat) (k : Callback) : EdgesOk (fire t k s) := by
  have hemit : EdgesOk (s.emit (.fire t k)) := h.congr (fun k => out_emit ..) fun _ => by simp [edgesOf]
  exact hemit.afterRoute _

/-- A scheduling pass continues the edges, by its callbacks (R187). -/
theorem EdgesOk.afterTickPass (hi : Inv s) {t : Nat} (ht : t < s.cfg.nVCT) : EdgesOk (tickPass t s) := by
  obtain ⟨ks, he⟩ := tickPass_eq hi ht
  have hfired : EdgesOk (fireAll t ks s) := List.foldlRecOn _ _ h fun _ hu k _ => hu.afterFire t k
  rw [he]
  exact hfired

end

/-! ### Commands and steps continue the edges -/

/-- A command ends in a state in which `P` holds. -/
inductive EndsIn (P : State → Prop) : Result → Prop
  | next (u : State) (h : P u) : EndsIn P (.next u)

theorem ite_endsIn {P : State → Prop} {c : Prop} [Decidable c] {a b : Result} (ha : EndsIn P a) (hb : EndsIn P b) :
    EndsIn P (if c then a else b) := by
  split
  · exact ha
  · exact hb

/-- The histories of edges do not read the response word. -/
theorem done_edges {u : State} (v : DoubleWord) (h : EdgesOk u) : EndsIn EdgesOk (done v u) := .next _ h

section
variable {s : State} (h : EdgesOk s)
include h

/-- A faulting command has no events (R230). -/
theorem raise_edges (r : FaultRecord) : EndsIn EdgesOk (.next (raise r s)) := .next _ h

theorem withUnit_edges {space : IndexSpace} {n : Nat} {body : Result}
    (hbody : n < unitCount s.cfg space → EndsIn EdgesOk body) : EndsIn EdgesOk (withUnit space n s body) := by
  unfold withUnit
  split
  · exact raise_edges h _
  · next hn => exact hbody (Nat.lt_of_not_le hn)

theorem execArbAck_edges (hi : Inv s) (k : IrqClass) : EndsIn EdgesOk (execArbAck k s) := by
  unfold execArbAck
  split
  · exact raise_edges h _
  · next hlocked => exact done_edges _ (h.afterAck (hi.units.arb.classes k) hlocked)

/-- Every command continues the edges. -/
theorem exec_edges (hi : Inv s) (i : Instr) : EndsIn EdgesOk (exec i s) := by
  cases i with
  | clcInit | clcSet | clcGet | clcIsen | clcGetpre | srlGet | srbGetmask | srbGetraw | srbGetmis | srbxGetmask
  | srbxGetraw | srbxGetmis | vctReset | vctSetfreq | vctGetcnt | vctNext =>
    exact withUnit_edges h fun _ => done_edges _ h
  | srlSet r => exact withUnit_edges h fun _ => done_edges _ (EdgesOk.afterSrlUpdate (s := s.setSrl r _) h r)
  | srlAssert | srlClear => exact withUnit_edges h fun _ => done_edges _ (h.afterSrlSetPending ..)
  | srbSetmask => exact withUnit_edges h fun _ => done_edges _ (h.afterSrbSetMaskBits ..)
  | srbSetraw => exact withUnit_edges h fun _ => done_edges _ (h.afterSrbSetRawBits ..)
  | srbClearraw => exact withUnit_edges h fun _ => done_edges _ (h.afterSrbClearRawBits ..)
  | srbxSetmask | srbxSetraw | srbxClearraw => exact withUnit_edges h fun _ => done_edges _ (h.afterSrbxChange ..)
  | arbSetlevel => exact withUnit_edges h fun _ => done_edges _ (h.afterSetLevel ..)
  | arbTake k => exact done_edges _ (h.afterTake k)
  | arbAck k => exact execArbAck_edges h hi k
  | arbSetmask k => exact done_edges _ (h.afterSetFilter k _)
  | vctStart =>
    exact withUnit_edges h fun _ => ite_endsIn (done_edges _ h) (ite_endsIn (done_edges _ h) (raise_edges h _))
  | vctStop => exact withUnit_edges h fun _ => ite_endsIn (done_edges _ h) (done_edges _ h)
  | vctSetovf | vctSetalarm => exact withUnit_edges h fun _ => ite_endsIn (raise_edges h _) (done_edges _ h)
  | vctTick => exact withUnit_edges h fun ht => done_edges _ (h.afterTickPass hi ht)

end

/-- Settles O52: after reset there is no edge and both outputs are 0; each kind of step (`step_cases`) continues the
edges, a command by `exec_edges`, a pass by `EdgesOk.afterTickPass`. -/
theorem classOutputsAlternate : Obligations.ClassOutputsAlternate := by
  refine ⟨fun cfg => ⟨⟨rfl, rfl⟩, rfl, rfl⟩, fun s t hi h hstep => ?_⟩
  obtain ⟨-, -, m, rest, -, ⟨cmd, data, -, -, ⟨i, -, hx⟩ | ⟨e, -, rfl⟩⟩ | ⟨d, -, -, rfl⟩ | ⟨n, -, hn, rfl⟩⟩ :=
    step_cases hstep
  · have hends := exec_edges (s := s.setInputs rest) h (hi.setInputs rest) i
    rw [hx] at hends
    cases hends with
    | next _ ht => exact ht
  · exact h
  · exact h
  · exact EdgesOk.afterTickPass (s := s.setInputs rest) h (hi.setInputs rest)
      (hi.timersOk.length ▸ (isDue_iff.mp hn).1)

/-! ### The Arbiter's command words (R84) -/

theorem subOf_lt (k : IrqClass) : subOf k < 256 := by cases k <;> decide

theorem decode_arbSetlevel {id : Nat} (hid : id < 65536) (k : IrqClass) (data : DoubleWord) :
    decode (cmdOf 0x41000000 (subOf k) id) data
      = .ok (.arbSetlevel id k (data.extractLsb' 0 8) (data.extractLsb' 8 8) (data.getLsbD 16)) :=
  (decode_cmdOf (k := 4) (op := 1) rfl (by decide) (by decide) (subOf_lt k) hid data).trans (by cases k <;> rfl)

theorem decode_arbTake (k : IrqClass) (data : DoubleWord) :
    decode (cmdOf 0x42000000 (subOf k) 0) data = .ok (.arbTake k) :=
  (decode_cmdOf (k := 4) (op := 2) rfl (by decide) (by decide) (subOf_lt k) (by decide) data).trans
    (by cases k <;> rfl)

theorem decode_arbAck (k : IrqClass) (data : DoubleWord) :
    decode (cmdOf 0x43000000 (subOf k) 0) data = .ok (.arbAck k) :=
  (decode_cmdOf (k := 4) (op := 3) rfl (by decide) (by decide) (subOf_lt k) (by decide) data).trans
    (by cases k <;> rfl)

theorem decode_arbSetmask (k : IrqClass) (data : DoubleWord) :
    decode (cmdOf 0x44000000 (subOf k) 0) data = .ok (.arbSetmask k (data.getLsbD 8) (data.extractLsb' 0 8)) :=
  (decode_cmdOf (k := 4) (op := 4) rfl (by decide) (by decide) (subOf_lt k) (by decide) data).trans
    (by cases k <;> rfl)

/-! ### The statements -/

/-- Settles O32: `best` answers a winner (`best_wins`), and two lines that both stand first both win (`wins_unique`). -/
theorem winnerIsUnique : Obligations.WinnerIsUnique := by
  intro s k
  obtain ⟨hnone, hfirst⟩ := best_wins s k
  constructor
  · rintro ⟨i, hi, hc⟩
    cases hb : best s k with
    | none => exact absurd hc (by simp [hnone hb i hi])
    | some w =>
      rw [hb] at hfirst
      refine ⟨w, rfl, hfirst (by simp), fun j hj => ?_⟩
      exact Option.some.inj (wins_unique (w := some j) ⟨nofun, fun _ => hj⟩ (hb ▸ best_wins s k))
  · intro h
    by_contra hb
    obtain ⟨hlt, hc, -⟩ := hfirst hb
    exact absurd hc (by simp [h _ hlt])

/-- Settles O33: past the index check the command is `setLevel`, whose effects are `setLevel_lines`, `setLevel_spec` and
`setLevel_trace`. -/
theorem arbSetlevelStoresAndArbitrates : Obligations.ArbSetlevelStoresAndArbitrates := by
  intro s id k data hid
  refine ⟨decode_arbSetlevel hid k data, withUnit_write_ends (space := .arb) fun _ => ?_⟩
  generalize data.extractLsb' 0 8 = p, data.extractLsb' 8 8 = n, data.getLsbD 16 = l
  have hline : newLine s.cfg.nestEnabled k p n l = ⟨decide (k = .fast), p, if s.cfg.nestEnabled then n else 0#8, l⟩ := by
    cases k <;> rfl
  refine ⟨rfl, (setLevel_lines id k p n l s).trans (by rw [hline]),
    fun k' => ⟨setLevel_spec id k p n l s k', setLevel_mask id k p n l s k'⟩, ?_, ?_, ?_⟩
  · exact (setLevel_trace id k p n l s).trans (List.append_assoc ..).symm
  · simp [KeepsUnits, respond]
  · simp [KeepsRest, respond]

/-- Settles O35: from Locked the command is `ackLine`, which arbitrates in `releaseLine`, where the output is that of the
selection kept beside the lock (`releaseLine_out`). -/
theorem arbAckReleasesAndSelects : Obligations.ArbAckReleasesAndSelects := by
  intro s k data
  refine ⟨decode_arbAck k data, fun hn => ⟨?_, rfl⟩, fun i hl => ⟨respond 0#64 (ackLine k i s), ?_, rfl, ?_⟩⟩
  · simp only [exec, execArbAck, hn, raise_eq_faulted]
  · simp only [exec, execArbAck, hl, done]
  · obtain ⟨hlock, hmask, hwins⟩ := ackLine_spec k i s
    have hout : (ackLine k i s).out k = ((ackLine k i s).classAt k).selectedLineId.isSome :=
      ArbClass.out_of_unlocked hlock
    have htrace := arbitrate_trace k (releaseLine k i s)
    rw [← ackLine_eq, releaseLine_trace, edgeBetween, releaseLine_out, hout] at htrace
    simp only [respond_classAt]
    exact ⟨(ackLine_lines k i s).trans (consumeLine_lines k i s), hlock, hwins, hmask,
      fun _ hk => ackLine_classAt_ne i s hk, htrace, by simp [KeepsUnits, respond],
      by simp [KeepsRest, respond]⟩

/-- Settles O36: the command is `setFilter`. -/
theorem arbSetmaskFiltersAtOnce : Obligations.ArbSetmaskFiltersAtOnce := by
  intro s k data
  refine ⟨decode_arbSetmask k data, _, execArbSetmask_eq .., ?_⟩
  generalize (if data.getLsbD 8 then some (data.extractLsb' 0 8) else none) = m
  simp only [respond_classAt]
  refine ⟨rfl, setFilter_lines k m s, setFilter_mask k m s, setFilter_spec k m s,
    fun _ hk => setFilter_classAt_ne m s hk, setFilter_trace k m s, ?_, ?_⟩
  · simp [KeepsUnits, respond, setFilter]
  · simp [KeepsRest, respond, setFilter]

/-- Settles O34: the three cases are those of `takeLine` and `takenLine`. -/
theorem arbTakeLocksPending : Obligations.ArbTakeLocksPending := by
  intro s k data
  refine ⟨decode_arbTake k data, fun i hl => ?_, fun i hl hs => ?_, fun hl hs => ?_⟩
  · have hlocked := ArbClass.state_of_locked hl
    simp only [exec, execArbTake, takeLine, takenLine, hlocked]
    rfl
  · have hpending := state_eq_pending_iff.mpr ⟨hl, hs⟩
    simp only [exec, execArbTake, takeLine, takenLine, hpending, State.emit, setClass_trace]
    rfl
  · have hidle := ArbClass.state_of_idle hl hs
    simp only [exec, execArbTake, takeLine, takenLine, hidle]
    rfl

end Sys2Proof.Machine

/-! SUPPORT. The DynamicTimer (`spec/44_dynamictimer.md`): a command writes the timer's record and schedules it, which
arms the exact deadline (O39 to O45); a pass performs its callbacks and replaces the record (O46, O47, O55); and what a
step can do to the timers and to the `Fire` records gives the rules about whole runs (O58, O59). -/

namespace Sys2Proof.Machine

/-! ### The timer's command words (R84) -/

section
variable {t : Nat} (ht : t < 65536) (data : DoubleWord)
include ht

theorem decode_vctStart : decode (cmdOf 0x51000000 0 t) data = .ok (.vctStart t) :=
  decode_cmdOf (k := 5) (op := 1) rfl (by decide) (by decide) (by decide) ht data

theorem decode_vctStop : decode (cmdOf 0x52000000 0 t) data = .ok (.vctStop t) :=
  decode_cmdOf (k := 5) (op := 2) rfl (by decide) (by decide) (by decide) ht data

theorem decode_vctReset : decode (cmdOf 0x53000000 0 t) data = .ok (.vctReset t) :=
  decode_cmdOf (k := 5) (op := 3) rfl (by decide) (by decide) (by decide) ht data

theorem decode_vctSetfreq : decode (cmdOf 0x54000000 0 t) data = .ok (.vctSetfreq t data.toNat) :=
  decode_cmdOf (k := 5) (op := 4) rfl (by decide) (by decide) (by decide) ht data

theorem decode_cmdOf_vctSetovf : decode (cmdOf 0x55000000 0 t) data = .ok (.vctSetovf t data.toNat) :=
  decode_cmdOf (k := 5) (op := 5) rfl (by decide) (by decide) (by decide) ht data

theorem decode_vctSetalarm {alarm : Nat} (ha : alarm < 256) :
    decode (cmdOf 0x56000000 alarm t) data = .ok (.vctSetalarm t alarm data.toNat) :=
  decode_cmdOf (k := 5) (op := 6) rfl (by decide) (by decide) ha ht data

theorem decode_vctTick : decode (cmdOf 0x57000000 0 t) data = .ok (.vctTick t) :=
  decode_cmdOf (k := 5) (op := 7) rfl (by decide) (by decide) (by decide) ht data

end

/-! ### The counter (R31, R175 to R177) -/

/-- At the instant of a rebase the counter is the counter base (R176). -/
theorem Vct.counterAt_of_rebased {T : Vct} {now : Nat} (h : T.baseTimestamp = now) :
    T.counterAt now = T.counterBase := by
  simp [Vct.counterAt, h]

theorem Vct.rate_eq_none_iff {T : Vct} : T.rate = none ↔ ¬ T.Counting := by
  rw [← Vct.rate_ne_none_iff, not_not]

/-- Settles O39: `Vct.reach_le_iff` at `reach` itself and at every earlier instant. -/
theorem reachIsFirstInstant : Obligations.ReachIsFirstInstant := by
  intro T f X hrun hf hpos
  have hrate : T.rate = some f := Vct.rate_eq_some.mpr ⟨hrun, hf, Nat.ne_of_gt hpos⟩
  have hbase := T.baseTimestamp_le_reach f X
  refine ⟨hbase, ?_, fun u hu hlt => ?_⟩
  · rw [← Vct.count_eq_counterAt]
    exact (Vct.reach_le_iff hrate X _ hbase).mp (Nat.le_refl _)
  · rw [← Vct.count_eq_counterAt]
    exact Nat.lt_of_not_le fun hle => Nat.not_le.mpr hlt ((Vct.reach_le_iff hrate X u hu).mpr hle)

/-! ### A record written and scheduled (R178) -/

/-- `SCHEDULE` arms the exact deadline of a timer that has a modulus if it runs. -/
theorem Vct.armed_armedExactly {T : Vct} {now : Nat} (hm : T.running = true → T.overflowModulus ≠ none)
    (hb : T.baseTimestamp ≤ now) : (T.armed now).ArmedExactly now := Vct.armedExactly hm hb _ rfl

theorem Vct.Written.modulus {T : Vct} (h : T.Written) : T.overflowModulus ≠ none :=
  have ⟨_, hm, _⟩ := h
  hm

theorem State.Shape.vct_length {s : State} (h : s.Shape) : s.vct.length = s.cfg.nVCT :=
  have ⟨_, _, _, _, _, hv, _⟩ := h
  hv

/-- Past the index check, a command that writes the record `T` of timer `t` and schedules it. -/
theorem withUnit_schedule {s : State} {t : Nat} (hs : s.Shape) (ht : t < s.cfg.nVCT) (T : Vct) :
    withUnit .vct t s (done 0#64 (schedule t (s.setVct t T)))
      = .next { s with vct := s.vct.set t (T.armed s.now), resp := some 0#64 } := by
  rw [withUnit_of_lt (space := .vct) ht, schedule_setVct (hs.vct_length ▸ ht)]
  rfl

/-- The record that `VCT.START` schedules (R180). -/
def Vct.started (T : Vct) (now : Nat) : Vct := { T with baseTimestamp := now, running := true }

/-- Settles O40: past the checks the record is written and scheduled (`Vct.armedExactly`). -/
theorem vctStartArmsDeadline : Obligations.VctStartArmsDeadline := by
  intro s t data ht
  refine ⟨decode_vctStart ht data, withUnit_of_le (space := .vct), fun hlt hr => ?_, fun hlt hr hw => ⟨?_, rfl⟩,
    fun hs hlt hr hw => ?_⟩
  · exact (withUnit_of_lt (space := .vct) hlt).trans (if_pos hr)
  · rw [← raise_eq_faulted]
    refine (withUnit_of_lt (space := .vct) hlt).trans ?_
    rw [if_neg (by simp [hr]), if_neg (mt Vct.written_iff.mp hw)]
  · have hexec : exec (.vctStart t) s
        = withUnit .vct t s (done 0#64 (schedule t (s.setVct t ((s.vctAt t).started s.now)))) := by
      rw [exec, execVctStart, if_neg (by simp [hr]), if_pos (Vct.written_iff.mpr hw)]
      rfl
    exact ⟨_, hexec.trans (withUnit_schedule hs hlt _),
      Vct.armed_armedExactly (T := (s.vctAt t).started s.now) (fun _ => hw.modulus) (Nat.le_refl _)⟩

/-- Settles O41: `VCT.STOP` writes the record that `rebase` gives, stopped and disarmed. -/
theorem vctStopHoldsCount : Obligations.VctStopHoldsCount := by
  intro s t data ht
  refine ⟨decode_vctStop ht data, withUnit_of_le (space := .vct), fun hlt hr => ?_, fun hlt hr => ?_⟩
  · exact (withUnit_of_lt (space := .vct) hlt).trans (if_neg (by simp [hr]))
  · rw [← Vct.count_eq_counterAt]
    exact (withUnit_of_lt (space := .vct) hlt).trans (if_pos hr)

/-- Settles O42: the cleared record is written and scheduled. -/
theorem vctResetZeroesCounter : Obligations.VctResetZeroesCounter := by
  intro s t data ht
  refine ⟨decode_vctReset ht data, withUnit_of_le (space := .vct), fun hs hlt hw => ?_⟩
  exact ⟨Vct.armed { (s.vctAt t).clearFired with counterBase := 0, baseTimestamp := s.now } s.now, rfl,
    Vct.armed_armedExactly (fun hr => (hw hr).modulus) (Nat.le_refl _), withUnit_schedule hs hlt _⟩

/-- Settles O43: the record rebased at the old rate holds the count at `NOW` whatever the new rate is. -/
theorem vctSetfreqKeepsCount : Obligations.VctSetfreqKeepsCount := by
  intro s t data ht
  refine ⟨decode_vctSetfreq ht data, withUnit_of_le (space := .vct), fun hs hlt hw => ?_⟩
  rw [← Vct.count_eq_counterAt]
  exact ⟨Vct.armed { (s.vctAt t).rebase s.now with frequencyHz := some data.toNat } s.now, rfl,
    Vct.counterAt_of_rebased rfl, Vct.armed_armedExactly (fun hr => (hw hr).modulus) (Nat.le_refl _),
    withUnit_schedule hs hlt _⟩

/-- The record that `VCT.SETOVF` writes, field by field (R185). -/
theorem Vct.clampTo_eq (T : Vct) (m now : Nat) : T.clampTo m now = { T with
    overflowModulus := some m,
    counterBase := if m < T.counterAt now then m else T.counterBase,
    baseTimestamp := if m < T.counterAt now then now else T.baseTimestamp } := by
  rw [Vct.clampTo, Vct.count_eq_counterAt]
  split <;> rfl

/-- A counter above the modulus is clamped to it, another stays (R185). -/
theorem Vct.clampTo_counterAt (T : Vct) (m now : Nat) :
    (T.clampTo m now).counterAt now = min (T.counterAt now) m := by
  rw [Vct.clampTo, Vct.count_eq_counterAt]
  split
  · next hlt => rw [Nat.min_eq_right (Nat.le_of_lt hlt)]; exact Vct.counterAt_of_rebased rfl
  · next hge => rw [Nat.min_eq_left (Nat.le_of_not_lt hge)]; rfl

theorem Vct.clampTo_baseTimestamp_le {T : Vct} {now : Nat} (h : T.baseTimestamp ≤ now) (m : Nat) :
    (T.clampTo m now).baseTimestamp ≤ now := by
  unfold Vct.clampTo
  split
  · exact Nat.le_refl now
  · exact h

/-- Settles O44: the clamped record is written and scheduled; its modulus is written whatever the timer was. -/
theorem vctSetovfClampsCounter : Obligations.VctSetovfClampsCounter := by
  intro s t data ht
  refine ⟨decode_cmdOf_vctSetovf ht data, withUnit_of_le (space := .vct), fun hlt h0 => ⟨?_, rfl⟩,
    fun hs hlt h0 hb => ?_⟩
  · rw [← raise_eq_faulted]
    exact (withUnit_of_lt (space := .vct) hlt).trans (if_pos h0)
  · have hexec : exec (.vctSetovf t data.toNat) s = withUnit .vct t s (done 0#64 (schedule t (s.setVct t
        ((s.vctAt t).clampTo data.toNat s.now)))) := by
      rw [exec, execVctSetovf, if_neg h0]
    refine ⟨((s.vctAt t).clampTo data.toNat s.now).armed s.now, ?_, Vct.clampTo_counterAt ..,
      Vct.armed_armedExactly (fun _ => by simp [Vct.clampTo_eq]) (Vct.clampTo_baseTimestamp_le hb _),
      hexec.trans (withUnit_schedule hs hlt _)⟩
    rw [Vct.clampTo_eq]
    rfl

/-- The record that `VCT.SETALARM` schedules (R186). -/
def Vct.withAlarm (T : Vct) (i ticks now : Nat) : Vct :=
  { T with alarms := T.alarms.set i ⟨some ticks, decide (ticks ≤ T.count now)⟩ }

/-- Settles O45: the record with the alarm replaced is written and scheduled; no callback runs. -/
theorem vctSetalarmMarksPassed : Obligations.VctSetalarmMarksPassed := by
  intro s t alarm data ht ha
  refine ⟨decode_vctSetalarm ht data ha, withUnit_of_le (space := .vct), exec_vctSetalarm_of_le data.toNat,
    fun hs hlt hal hready => ?_⟩
  obtain ⟨hb, hw⟩ := hready
  have hexec : exec (.vctSetalarm t alarm data.toNat) s = withUnit .vct t s (done 0#64 (schedule t (s.setVct t
      ((s.vctAt t).withAlarm alarm data.toNat s.now)))) := by
    rw [exec, execVctSetalarm, if_neg (Nat.not_le.mpr hal)]
    rfl
  rw [← Vct.count_eq_counterAt]
  exact ⟨((s.vctAt t).withAlarm alarm data.toNat s.now).armed s.now, rfl,
    Vct.armed_armedExactly (fun hr => (hw hr).modulus) hb,
    hexec.trans (withUnit_schedule hs hlt _)⟩

/-! ### What a pass fires and marks (R179, R187) -/

theorem Alarm.reached_iff {a : Alarm} {c : Nat} :
    a.reached c = true ↔ a.fired = false ∧ ∃ x ∈ a.threshold, x ≤ c := by
  unfold Alarm.reached
  cases a.threshold <;> simp

theorem Alarm.afterPass_eq (a : Alarm) (c : Nat) : a.afterPass c = ⟨a.threshold, a.fired || a.reached c⟩ := by
  unfold Alarm.afterPass
  split
  · next hr => rw [hr, Bool.or_true]
  · next hr => rw [Bool.eq_false_iff.mpr hr, Bool.or_false]

theorem Vct.overflows_iff {T : Vct} {c : Nat} : T.overflows c = true ↔ ∃ m ∈ T.overflowModulus, m ≤ c := by
  unfold Vct.overflows
  cases T.overflowModulus <;> simp

/-- The reached alarms in the model's terms and in the statements'. -/
theorem firedAlarms_eq_reachedAlarms (T : Vct) (c : Nat) :
    firedAlarms T.alarms (T.alarmCountAt c) = reachedAlarms T c := by
  refine congrArg (List.map Callback.alarm) (List.filter_congr fun i hi => ?_)
  have hlt : i < T.alarms.length := List.mem_range.mp hi
  rw [Bool.eq_iff_iff, Alarm.reached_iff, decide_eq_true_iff]
  simp [hlt, Vct.le_alarmCountAt]

/-- Counted from 0 with every flag cleared, a pass reaches exactly the alarms of threshold 0 (R187). -/
theorem firedAlarms_clearFired (T : Vct) : firedAlarms T.clearFired.alarms 0 = wrapAlarms T.alarms := by
  unfold firedAlarms wrapAlarms
  rw [show T.clearFired.alarms.length = T.alarms.length from List.length_map _]
  refine congrArg (List.map Callback.alarm) (List.filter_congr fun i hi => ?_)
  have hlt : i < T.alarms.length := List.mem_range.mp hi
  rw [Bool.eq_iff_iff, Alarm.reached_iff, decide_eq_true_iff]
  simp [Vct.clearFired, hlt]

theorem passCallbacks_eq (T : Vct) (now : Nat) : passCallbacks T now = expectedCallbacks T (T.counterAt now) := by
  rw [passCallbacks, expectedCallbacks, firedAlarms_eq_reachedAlarms, firedAlarms_clearFired, Vct.count_eq_counterAt]
  exact congrArg _ (if_congr Vct.overflows_iff rfl rfl)

/-- The record a pass leaves, field by field (R187). -/
theorem Vct.afterPass_eq (T : Vct) (now : Nat) : T.afterPass now = { T with
    alarms := alarmsAfterPass T (T.counterAt now),
    counterBase := if ∃ m ∈ T.overflowModulus, m ≤ T.counterAt now then 0 else T.counterBase,
    baseTimestamp := if ∃ m ∈ T.overflowModulus, m ≤ T.counterAt now then now else T.baseTimestamp } := by
  unfold Vct.afterPass alarmsAfterPass
  rw [Vct.count_eq_counterAt]
  by_cases ho : ∃ m ∈ T.overflowModulus, m ≤ T.counterAt now
  · simp only [Vct.overflows_iff.mpr ho, ho, if_true, Vct.clearFired, List.map_map]
    congr 2
    funext a
    have hzero : Alarm.reached { a with fired := false } 0 = decide (a.threshold = some 0) := by
      rw [Bool.eq_iff_iff, Alarm.reached_iff]
      simp
    simp [Alarm.afterPass_eq, hzero]
  · have hno : T.overflows (T.counterAt now) = false := Bool.eq_false_iff.mpr (mt Vct.overflows_iff.mp ho)
    simp only [hno, ho, if_false, Bool.false_eq_true, Vct.alarmCountAt_of_not_overflows hno]
    congr 2
    funext a
    rw [Alarm.afterPass_eq]
    congr 1
    rw [Bool.eq_iff_iff, Bool.or_eq_true, Alarm.reached_iff, decide_eq_true_iff]
    cases a.fired <;> simp

/-- The counter after a pass is 0 after an overflow and unchanged otherwise (R187). -/
theorem Vct.afterPass_counterAt (T : Vct) (now : Nat) : (T.afterPass now).counterAt now
    = if ∃ m ∈ T.overflowModulus, m ≤ T.counterAt now then 0 else T.counterAt now := by
  rw [Vct.afterPass_eq]
  split
  · exact Vct.counterAt_of_rebased rfl
  · rfl

theorem Vct.afterPass_overflowModulus (T : Vct) (now : Nat) :
    (T.afterPass now).overflowModulus = T.overflowModulus := by rw [Vct.afterPass_eq]

/-- After a pass no event is left at its instant, if the modulus is positive (R187, corner case (c)). -/
theorem Vct.afterPass_not_eventAt {T : Vct} {now : Nat} (hm : T.overflowModulus ≠ some 0) :
    ¬ (T.afterPass now).EventAt ((T.afterPass now).counterAt now) := by
  rw [Vct.afterPass_counterAt]
  rintro (⟨m, hmod, hle⟩ | ⟨a, ha, hf, x, hx, hle⟩)
  · rw [Vct.afterPass_overflowModulus] at hmod
    split at hle
    · exact hm (by rw [← Nat.le_zero.mp hle]; exact hmod)
    · next ho => exact ho ⟨m, hmod, hle⟩
  · rw [Vct.afterPass_eq] at ha
    obtain ⟨b, -, rfl⟩ := List.mem_map.mp ha
    have hx' : b.threshold = some x := hx
    split at hle
    · next ho =>
      simp only [if_pos ho] at hf
      simp [hx', Nat.le_zero.mp hle] at hf
    · next ho =>
      simp only [if_neg ho] at hf
      simp [hx', hle] at hf

/-! ### The pass as a whole (R187, R217) -/

/-- The list of timers has the timers of the configuration, each with its alarms: all a pass needs of the shape. -/
structure TimersShaped (s : State) : Prop where
  length : s.vct.length = s.cfg.nVCT
  alarms : ∀ t < s.cfg.nVCT, (s.vctAt t).alarms.length = alarmCount s.cfg t

theorem State.Shape.timersShaped {s : State} (h : s.Shape) : TimersShaped s :=
  have ⟨_, _, _, _, _, hv, _, ha⟩ := h
  ⟨hv, ha⟩

/-- The callbacks of a pass: none of a timer that does not count (R187). -/
def Vct.callbacks (T : Vct) (now : Nat) : List Callback := if T.rate = none then [] else passCallbacks T now

theorem Vct.callbacks_of_counting {T : Vct} (h : T.Counting) (now : Nat) :
    T.callbacks now = expectedCallbacks T (T.counterAt now) := by
  rw [Vct.callbacks, if_neg (Vct.rate_ne_none_iff.mpr h), passCallbacks_eq]

theorem Vct.passed_of_counting {T : Vct} (h : T.Counting) (now : Nat) : T.passed now = T.afterPass now :=
  if_neg (Vct.rate_ne_none_iff.mpr h)

theorem Vct.passed_of_not_counting {T : Vct} (h : ¬ T.Counting) (now : Nat) : T.passed now = T :=
  if_pos (Vct.rate_eq_none_iff.mpr h)

/-- A pass performs the callbacks of its timer, replaces the timer's record and schedules it (R187). -/
theorem tickPass_eq_callbacks {s : State} (h : TimersShaped s) {t : Nat} (ht : t < s.cfg.nVCT) : tickPass t s
    = (fireAll t ((s.vctAt t).callbacks s.now) s).setVct t (((s.vctAt t).passed s.now).armed s.now) := by
  unfold Vct.callbacks Vct.passed
  cases hr : (s.vctAt t).rate with
  | none => rw [tickPass_none t s hr, if_pos rfl, if_pos rfl, Vct.armed, Vct.armAt_none hr]; rfl
  | some f =>
    rw [tickPass_spec t s f hr (h.length ▸ ht) (h.alarms t ht), if_neg nofun, if_neg nofun]
    rfl

theorem tickPass_vct {s : State} (h : TimersShaped s) {t : Nat} (ht : t < s.cfg.nVCT) :
    (tickPass t s).vct = s.vct.set t (((s.vctAt t).passed s.now).armed s.now) := by
  rw [tickPass_eq_callbacks h ht, setVct_vct, fireAll_vct]

theorem tickPass_vctAt {s : State} (h : TimersShaped s) {t : Nat} (ht : t < s.cfg.nVCT) :
    (tickPass t s).vctAt t = ((s.vctAt t).passed s.now).armed s.now := by
  rw [tickPass_eq_callbacks h ht]
  exact vctAt_setVct_self _ _ (by simpa [h.length] using ht)

/-- `VCT.TICK` of a timer that exists is its pass (R187). -/
theorem exec_vctTick {s : State} {t : Nat} (ht : t < s.cfg.nVCT) :
    exec (.vctTick t) s = .next (respond 0#64 (tickPass t s)) := withUnit_of_lt (space := .vct) ht

theorem Vct.Ready.afterPass_rebased {T : Vct} {now : Nat} (h : T.Ready now) :
    (T.afterPass now).baseTimestamp ≤ now := by
  obtain ⟨hb, -⟩ := h
  rw [Vct.afterPass_eq]
  show (if _ then _ else _) ≤ now
  split
  · exact Nat.le_refl now
  · exact hb

/-- A pass of a counting timer arms its exact deadline. -/
theorem Vct.Ready.afterPass_armedExactly {T : Vct} {now : Nat} (h : T.Ready now) (hc : T.Counting) :
    ((T.afterPass now).armed now).ArmedExactly now := by
  have hbase := h.afterPass_rebased
  obtain ⟨-, hw⟩ := h
  obtain ⟨hrun, -⟩ := hc
  refine Vct.armed_armedExactly (fun _ => ?_) hbase
  rw [Vct.afterPass_overflowModulus]
  exact (hw hrun).modulus

/-- Settles O46: `tickPass_eq_callbacks`, with the callbacks and the record in the statement's terms
(`passCallbacks_eq`, `Vct.afterPass_eq`). -/
theorem vctTickFiresReachedAlarms : Obligations.VctTickFiresReachedAlarms := by
  intro s t data ht
  refine ⟨decode_vctTick ht data, withUnit_of_le (space := .vct), fun hlt hc => ?_, fun hs hlt hc hready => ?_⟩
  · rw [exec_vctTick hlt, tickPass_none t s (Vct.rate_eq_none_iff.mpr hc)]
    rfl
  · refine ⟨((s.vctAt t).afterPass s.now).armed s.now, ?_, hready.afterPass_armedExactly hc, ?_⟩
    · rw [Vct.afterPass_eq]
      rfl
    · rw [exec_vctTick hlt, tickPass_eq_callbacks hs.timersShaped hlt, Vct.callbacks_of_counting hc,
        Vct.passed_of_counting hc, respond, State.setVct, fireAll_vct]
      rfl

/-- An exact deadline is not now when no event is at hand (R178). -/
theorem Vct.ArmedExactly.deadline_ne {T : Vct} {now : Nat} (h : T.ArmedExactly now)
    (hev : ¬ T.EventAt (T.counterAt now)) : T.deadline ≠ some now := by
  unfold Vct.ArmedExactly at h
  split at h
  · obtain ⟨d, hd, -, hat, -⟩ := h
    intro he
    cases hd.symm.trans he
    exact hev hat
  · rw [h]
    exact nofun

/-- Settles O47: no event is left (`Vct.afterPass_not_eventAt`), and the deadline is exact. -/
theorem passLeavesNothingDue : Obligations.PassLeavesNothingDue := by
  intro s u t hs hlt hready hm hx
  have hnow := (tickPass_keepsGlobals t s).now
  rw [exec_vctTick hlt] at hx
  cases hx
  rw [respond_vctAt, tickPass_vctAt hs.timersShaped hlt, show (respond 0#64 (tickPass t s)).now = s.now from hnow]
  by_cases hc : (s.vctAt t).Counting
  · rw [Vct.passed_of_counting hc]
    have hev := Vct.afterPass_not_eventAt (now := s.now) hm
    exact ⟨rfl, (hready.afterPass_armedExactly hc).deadline_ne hev, fun _ => hev⟩
  · rw [Vct.passed_of_not_counting hc]
    have hdisarmed : (s.vctAt t).armAt s.now = none := Vct.armAt_none (Vct.rate_eq_none_iff.mpr hc) _
    exact ⟨rfl, by simp [Vct.armed, hdisarmed], fun h => absurd h hc⟩

/-! ### The `Fire` records (R214): a callback adds one, nothing else does -/

theorem firesOf_append (xs ys : List Event) : firesOf (xs ++ ys) = firesOf xs ++ firesOf ys := List.filter_append ..

theorem firesOf_edgeBetween (s t : State) (k : IrqClass) : firesOf (edgeBetween s t k) = [] := by
  unfold edgeBetween
  split <;> rfl

/-- The `Fire` records of `u` are those of `s`, then those of the callbacks `ks` of timer `t`. -/
def Fired (t : Nat) (ks : List Callback) (s u : State) : Prop :=
  firesOf u.trace = firesOf s.trace ++ ks.map (Event.fire t)

/-- The trace grew by records that are no callbacks. -/
def Silent (s u : State) : Prop := firesOf u.trace = firesOf s.trace

theorem Silent.refl (s : State) : Silent s s := rfl

theorem Silent.fired {s u : State} (h : Silent s u) (t : Nat) : Fired t [] s u := Eq.trans h (List.append_nil _).symm

theorem Silent.trans {s u w : State} (h : Silent s u) (h' : Silent u w) : Silent s w := Eq.trans h' h

theorem Silent.of_append {s u : State} {es : List Event} (h : u.trace = s.trace ++ es) (hes : firesOf es = []) :
    Silent s u := by rw [Silent, h, firesOf_append, hes, List.append_nil]

theorem arbitrate_silent (k : IrqClass) (s : State) : Silent s (arbitrate k s) :=
  .of_append (arbitrate_trace k s) (firesOf_edgeBetween ..)

theorem rearbitrate_silent (k : IrqClass) (s : State) : Silent s (rearbitrate k s) :=
  .of_append (rearbitrate_trace k s) (firesOf_edgeBetween ..)

theorem setLevel_silent (id : Nat) (cls : IrqClass) (p n : Byte) (l : Bool) (s : State) :
    Silent s (setLevel id cls p n l s) :=
  .of_append (setLevel_trace id cls p n l s) (by rw [firesOf_append, firesOf_edgeBetween, firesOf_edgeBetween]; rfl)

theorem takeLine_silent (k : IrqClass) (s : State) : Silent s (takeLine k s) := by
  obtain ⟨i, -, -, ht⟩ | ⟨-, hs⟩ := takeLine_spec k s
  · exact .of_append ht rfl
  · exact hs.symm ▸ .refl s

theorem ackLine_silent (k : IrqClass) (i : Nat) (s : State) : Silent s (ackLine k i s) :=
  (Silent.of_append (es := []) (by simp) rfl).trans (arbitrate_silent ..)

theorem deliver_silent (sink : Sink) (v : Nat) (s : State) : Silent s (deliver sink v s) := by
  have hd := deliver_spec sink v s
  refine .of_append (es := newEvents s (deliver sink v s)) ?_ ?_
  · obtain ⟨es, hes⟩ := hd.grows
    rw [newEvents_eq hes.symm, hes]
  · simpa [firesOf] using hd.noFire

theorem srlUpdate_silent (r : Nat) (s : State) : Silent s (srlUpdate r s) := by
  simp only [srlUpdate]
  split
  · exact .refl s
  · exact deliver_silent _ _ (s.setSrl r _)

theorem srlSetPending_silent (r : Nat) (p : Bool) (s : State) : Silent s (srlSetPending r p s) :=
  srlUpdate_silent r (s.setSrl r _)

theorem srbLineUpdate_silent (b : Nat) (act : Word) (s : State) (j : Nat) : Silent s (srbLineUpdate b act s j) := by
  simp only [srbLineUpdate]
  split
  · exact .refl s
  · exact deliver_silent _ _ (s.setSrb b _)

theorem srbUpdate_silent (b : Nat) (s : State) : Silent s (srbUpdate b s) :=
  List.foldlRecOn _ _ (.refl s) fun u h j _ => h.trans (srbLineUpdate_silent b _ u j)

theorem srbSetMaskBits_silent (b : Nat) (bits : Word) (s : State) : Silent s (srbSetMaskBits b bits s) :=
  srbUpdate_silent b (s.setSrb b _)

theorem srbSetRawBits_silent (b : Nat) (bits : Word) (s : State) : Silent s (srbSetRawBits b bits s) :=
  srbUpdate_silent b (s.setSrb b _)

theorem srbClearRawBits_silent (b : Nat) (bits : Word) (s : State) : Silent s (srbClearRawBits b bits s) :=
  srbUpdate_silent b (s.setSrb b _)

theorem srbxChange_silent (x : Nat) (u : Srbx) (s : State) : Silent s (srbxChange x u s) := by
  simp only [srbxChange]
  split
  · exact srbSetRawBits_silent _ _ (s.setSrbx x u)
  · split
    · exact srbClearRawBits_silent _ _ (s.setSrbx x u)
    · exact .refl s

theorem performRoute_silent (route : Route) (s : State) : Silent s (performRoute route s) := by
  cases route with
  | none => exact .refl s
  | srl r => exact srlSetPending_silent r true s
  | srb b bits => exact srbSetRawBits_silent b bits s
  | srbx x bits => exact srbxChange_silent x _ s

/-- The callbacks of a timer are on record, in order, and no others. -/
theorem fireAll_fired (t : Nat) (ks : List Callback) (s : State) : Fired t ks s (fireAll t ks s) := by
  induction ks generalizing s with
  | nil => exact (List.append_nil _).symm
  | cons k ks ih =>
    have hfire : firesOf (fire t k s).trace = firesOf s.trace ++ [.fire t k] :=
      Eq.trans (performRoute_silent _ (s.emit (.fire t k))) (firesOf_append ..)
    rw [fireAll_cons, Fired, ih (fire t k s), hfire, List.append_assoc]
    rfl

theorem tickPass_fired {s : State} (h : TimersShaped s) {t : Nat} (ht : t < s.cfg.nVCT) :
    Fired t ((s.vctAt t).callbacks s.now) s (tickPass t s) := by
  rw [tickPass_eq_callbacks h ht]
  exact fireAll_fired ..

/-- The new events of a step are read off the two traces. -/
theorem Fired.newEvents {t : Nat} {ks : List Callback} {s u : State} (h : Fired t ks s u) (he : Extends s u) :
    firesOf (newEvents s u) = ks.map (.fire t) := by
  obtain ⟨es, hes⟩ := he
  rw [Fired, ← hes, firesOf_append] at h
  rw [newEvents_eq hes.symm]
  exact List.append_cancel_left h

/-! ### The deadline of an armed timer (R190) -/

theorem Vct.Ok.ready {T : Vct} {now : Nat} (h : T.Ok now) : T.Ready now :=
  have ⟨_, hs⟩ := Vct.ok_iff.mp h
  ⟨hs.rebased, hs.written⟩

/-- An armed deadline of a timer: the timer counts, has its next event there, and none before (R178). -/
theorem Vct.Ok.deadline_spec {T : Vct} {now d : Nat} (h : T.Ok now) (hd : T.deadline = some d) :
    T.Counting ∧ T.EventAt (T.counterAt d) ∧ ∀ n, now ≤ n → n < d → ¬ T.EventAt (T.counterAt n) := by
  obtain ⟨harm, hs⟩ := Vct.ok_iff.mp h
  have hexact : T.ArmedExactly now := Vct.armedExactly (fun hr => (hs.written hr).modulus) hs.rebased _ harm
  unfold Vct.ArmedExactly at hexact
  split at hexact
  · next hc =>
    obtain ⟨d', hd', -, hev, hfirst⟩ := hexact
    cases hd.symm.trans hd'
    exact ⟨hc, hev, hfirst⟩
  · cases hd.symm.trans hexact

/-- Without an event a pass has no callback. -/
theorem expectedCallbacks_eq_nil {T : Vct} {c : Nat} (h : ¬ T.EventAt c) : expectedCallbacks T c = [] := by
  have ho : ¬ ∃ m ∈ T.overflowModulus, m ≤ c := fun hm => h (.inl hm)
  rw [expectedCallbacks, if_neg ho, List.append_nil, reachedAlarms, List.map_eq_nil_iff, List.filter_eq_nil_iff]
  rintro i - hi
  obtain ⟨a, ha, hf, x, hx, hle, -⟩ := of_decide_eq_true hi
  exact h (.inr ⟨a, List.mem_of_getElem? ha, hf, x, hx, hle⟩)

/-- With an event a pass has a callback: the overflow, or an alarm reached below the modulus. -/
theorem expectedCallbacks_ne_nil {T : Vct} {c : Nat} (h : T.EventAt c) : expectedCallbacks T c ≠ [] := by
  unfold expectedCallbacks
  by_cases ho : ∃ m ∈ T.overflowModulus, m ≤ c
  · rw [if_pos ho]
    simp
  · obtain hm | ⟨a, ha, hf, x, hx, hle⟩ := h
    · exact absurd hm ho
    · obtain ⟨i, hi⟩ := List.mem_iff_getElem?.mp ha
      have hlt : i < T.alarms.length := (List.getElem?_eq_some_iff.mp hi).1
      have hbelow : ∀ m ∈ T.overflowModulus, x ≤ m := fun m hm =>
        Nat.le_of_not_le fun hmx => ho ⟨m, hm, Nat.le_trans hmx hle⟩
      refine List.append_ne_nil_of_left_ne_nil (List.ne_nil_of_mem (a := .alarm i) ?_) _
      exact List.mem_map_of_mem (List.mem_filter.mpr
        ⟨List.mem_range.mpr hlt, decide_eq_true ⟨a, hi, hf, x, hx, hle, hbelow⟩⟩)

/-- A pass of a counting timer at another instant: its callbacks, and the counter after it. -/
theorem exec_vctTick_at {s : State} (h : Inv s) {t : Nat} (ht : t < s.cfg.nVCT) (hc : (s.vctAt t).Counting) (n : Nat) :
    ∃ u, exec (.vctTick t) { s with now := n } = .next u
      ∧ firesOf (newEvents s u) = (expectedCallbacks (s.vctAt t) ((s.vctAt t).counterAt n)).map (.fire t)
      ∧ (u.vctAt t).counterAt n = if ∃ m ∈ (s.vctAt t).overflowModulus, m ≤ (s.vctAt t).counterAt n then 0
        else (s.vctAt t).counterAt n := by
  have hshape : TimersShaped (s.setNow n) := ⟨h.timersOk.length, h.timersOk.alarms⟩
  have hfired := tickPass_fired hshape ht
  rw [vctAt_setNow, Vct.callbacks_of_counting hc] at hfired
  refine ⟨_, exec_vctTick (s := s.setNow n) ht, hfired.newEvents (tickPass_extends t (s.setNow n)), ?_⟩
  rw [respond_vctAt, tickPass_vctAt hshape ht, vctAt_setNow, Vct.passed_of_counting hc]
  exact (s.vctAt t).afterPass_counterAt n

/-- Settles O55: the deadline is the first instant with an event (`Vct.Ok.deadline_spec`), and a pass has callbacks
exactly when there is one. -/
theorem nextDeadlineRoundTrip : Obligations.NextDeadlineRoundTrip := by
  intro s t d h ht hd
  obtain ⟨hc, hev, hfirst⟩ := (h.timersOk.ok t ht).deadline_spec hd
  refine ⟨fun n hn hlt => ?_, ?_⟩
  · have hno := hfirst n hn hlt
    obtain ⟨u, hx, hf, hcount⟩ := exec_vctTick_at h ht hc n
    refine ⟨u, hx, ?_, hcount.trans (if_neg fun ho => hno (.inl ho))⟩
    rw [hf, expectedCallbacks_eq_nil hno]
    rfl
  · obtain ⟨u, hx, hf, hcount⟩ := exec_vctTick_at h ht hc d
    exact ⟨u, hx, expectedCallbacks_ne_nil hev, hf, hcount⟩

/-! ### What a step does to the timers and to the `Fire` records -/

/-- What a move, of a command `j` or of none, makes of the timers: nothing; one record written by a command that is no
pass, without a callback; or a pass. -/
inductive TimersMove (s u : State) (j : Option Instr) : Prop
  | quiet (hvct : u.vct = s.vct) (hf : Silent s u)
  | command (i : Instr) (t : Nat) (T : Vct) (hj : j = some i) (hi : i ≠ .vctTick t) (ht : t < s.cfg.nVCT)
    (hT : (s.vctAt t).Changed t s.now i T) (hvct : u.vct = s.vct.set t (T.armed s.now)) (hf : Silent s u)
  | pass (t : Nat) (ht : t < s.cfg.nVCT) (hvct : u.vct = s.vct.set t (((s.vctAt t).passed s.now).armed s.now))
    (hf : Fired t ((s.vctAt t).callbacks s.now) s u)

/-- The timers and the records do not depend on the moves offered. -/
theorem TimersMove.of_setInputs {s u : State} {rest : List Input} {j : Option Instr}
    (h : TimersMove (s.setInputs rest) u j) : TimersMove s u j := by
  cases h with
  | quiet hvct hf => exact .quiet hvct hf
  | command i t T hj hi ht hT hvct hf => exact .command i t T hj hi ht hT hvct hf
  | pass t ht hvct hf => exact .pass t ht hvct hf

/-- A command moves the timers of `s` as `TimersMove` says. -/
abbrev MovesTimers (s : State) (i : Instr) (r : Result) : Prop := EndsIn (fun u => TimersMove s u (some i)) r

theorem done_moves {s u : State} {i : Instr} {v : DoubleWord} (hvct : u.vct = s.vct) (hf : Silent s u) :
    MovesTimers s i (done v u) := .next _ (.quiet hvct hf)

/-- A faulting command touches no timer (R230). -/
theorem raise_moves {s : State} {i : Instr} (r : FaultRecord) : MovesTimers s i (.next (raise r s)) :=
  .next _ (.quiet rfl rfl)

theorem withUnit_moves {s : State} {i : Instr} {space : IndexSpace} {n : Nat} {body : Result}
    (hbody : n < unitCount s.cfg space → MovesTimers s i body) : MovesTimers s i (withUnit space n s body) := by
  unfold withUnit
  split
  · exact raise_moves _
  · next hn => exact hbody (Nat.lt_of_not_le hn)

/-- A command with one unit index and no fault of its own, on a unit that is no timer. -/
theorem withUnit_done_moves {s u : State} {i : Instr} {space : IndexSpace} {n : Nat} {v : DoubleWord}
    (hvct : u.vct = s.vct) (hf : Silent s u) : MovesTimers s i (withUnit space n s (done v u)) :=
  withUnit_moves fun _ => done_moves hvct hf

theorem execArbAck_moves (k : IrqClass) (s : State) : MovesTimers s (.arbAck k) (execArbAck k s) := by
  unfold execArbAck
  split
  · exact raise_moves _
  · exact done_moves (by simp) (ackLine_silent ..)

theorem execVctStop_moves (t : Nat) (s : State) : MovesTimers s (.vctStop t) (execVctStop t s) := by
  refine withUnit_moves fun ht => ?_
  split
  · exact .next _ (.command _ t _ rfl nofun ht .stop rfl rfl)
  · exact done_moves rfl (.refl s)

section
variable {s : State} (h : TimersShaped s)
include h

/-- A command that writes the record of a timer and schedules it. -/
theorem schedule_moves {i : Instr} {t : Nat} {T : Vct} (ht : t < s.cfg.nVCT) (hi : i ≠ .vctTick t)
    (hT : (s.vctAt t).Changed t s.now i T) : MovesTimers s i (done 0#64 (schedule t (s.setVct t T))) := by
  rw [schedule_setVct (h.length ▸ ht)]
  exact .next _ (.command i t T rfl hi ht hT rfl rfl)

theorem execVctStart_moves (t : Nat) : MovesTimers s (.vctStart t) (execVctStart t s) := by
  refine withUnit_moves fun ht => ?_
  split
  · exact done_moves rfl (.refl s)
  · next hr =>
    split
    · next hw => exact schedule_moves h ht nofun (.start (by simpa using hr) (Vct.written_iff.mp hw))
    · exact raise_moves _

theorem execVctSetovf_moves (t m : Nat) : MovesTimers s (.vctSetovf t m) (execVctSetovf t m s) := by
  refine withUnit_moves fun ht => ?_
  split
  · exact raise_moves _
  · next hm => exact schedule_moves h ht nofun (.setovf m hm)

theorem execVctSetalarm_moves (t a n : Nat) : MovesTimers s (.vctSetalarm t a n) (execVctSetalarm t a n s) := by
  refine withUnit_moves fun ht => ?_
  split
  · exact raise_moves _
  · exact schedule_moves h ht nofun (.setalarm a n)

/-- Everything a command can do to the timers, from any state with its timers in shape. -/
theorem exec_moves (i : Instr) : MovesTimers s i (exec i s) := by
  cases i with
  | clcInit | clcSet | clcGet | clcIsen | clcGetpre | srlGet | srbGetmask | srbGetraw | srbGetmis | srbxGetmask
  | srbxGetraw | srbxGetmis | vctGetcnt | vctNext => exact withUnit_done_moves rfl (.refl s)
  | srlSet r => exact withUnit_done_moves (by simp) (srlUpdate_silent r (s.setSrl r _))
  | srlAssert | srlClear => exact withUnit_done_moves (by simp) (srlSetPending_silent ..)
  | srbSetmask => exact withUnit_done_moves (by simp) (srbSetMaskBits_silent ..)
  | srbSetraw => exact withUnit_done_moves (by simp) (srbSetRawBits_silent ..)
  | srbClearraw => exact withUnit_done_moves (by simp) (srbClearRawBits_silent ..)
  | srbxSetmask | srbxSetraw | srbxClearraw => exact withUnit_done_moves (by simp) (srbxChange_silent ..)
  | arbSetlevel => exact withUnit_done_moves (by simp) (setLevel_silent ..)
  | arbTake k => exact done_moves (by simp) (takeLine_silent k s)
  | arbAck k => exact execArbAck_moves k s
  | arbSetmask k =>
    exact done_moves (by simp) (.trans (.of_append (es := []) (by simp) rfl) (rearbitrate_silent ..))
  | vctStart t => exact execVctStart_moves h t
  | vctStop t => exact execVctStop_moves t s
  | vctReset => exact withUnit_moves fun ht => schedule_moves h ht nofun .reset
  | vctSetfreq t hz => exact withUnit_moves fun ht => schedule_moves h ht nofun (.setfreq hz)
  | vctSetovf t m => exact execVctSetovf_moves h t m
  | vctSetalarm t a n => exact execVctSetalarm_moves h t a n
  | vctTick t =>
    refine withUnit_moves fun ht => .next _ ?_
    exact .pass t ht (tickPass_vct h ht) (tickPass_fired h ht)

/-- Everything a step can do to the timers. -/
theorem step_moves {u : State} (hstep : step s = .next u) :
    ∃ j, TimersMove s u j
      ∧ ∀ i ∈ j, ∃ cmd data, s.inputs.head? = some (.command cmd data) ∧ decode cmd data = .ok i := by
  have h' : ∀ rest, TimersShaped (s.setInputs rest) := fun _ => ⟨h.length, h.alarms⟩
  obtain ⟨-, -, m, rest, hin, ⟨cmd, data, rfl, -, ⟨i, hdec, hx⟩ | ⟨e, -, rfl⟩⟩ | ⟨d, -, -, rfl⟩ | ⟨n, -, hn, rfl⟩⟩ :=
    step_cases hstep
  · have hends := exec_moves (h' rest) i
    rw [hx] at hends
    cases hends with
    | next _ hm =>
      refine ⟨some i, hm.of_setInputs, ?_⟩
      rintro _ ⟨⟩
      exact ⟨cmd, data, by rw [hin]; rfl, hdec⟩
  · exact ⟨none, .quiet rfl rfl, nofun⟩
  · exact ⟨none, .quiet rfl rfl, nofun⟩
  · have hlt : n < s.cfg.nVCT := h.length ▸ (isDue_iff.mp hn).1
    exact ⟨none, .pass n hlt (tickPass_vct (h' rest) hlt) (tickPass_fired (h' rest) hlt), nofun⟩

end

/-- One timer's record after a move, of the timers in shape. -/
theorem vctAt_of_vct_eq_set {s u : State} {t : Nat} {T : Vct} (ht : t < s.vct.length) (hvct : u.vct = s.vct.set t T)
    (t' : Nat) : u.vctAt t' = if t' = t then T else s.vctAt t' := by
  have hset : u.vctAt t' = (s.setVct t T).vctAt t' := by rw [State.vctAt, hvct]; rfl
  rw [hset]
  split
  · next he => rw [he]; exact vctAt_setVct_self _ _ ht
  · next hne => exact vctAt_setVct_ne _ _ hne

/-- One timer's record replaced, with as many alarms. -/
theorem TimersShaped.of_set {s u : State} (h : TimersShaped s) (hcfg : u.cfg = s.cfg) {t : Nat} {T : Vct}
    (ht : t < s.cfg.nVCT) (hlen : T.alarms.length = (s.vctAt t).alarms.length) (hvct : u.vct = s.vct.set t T) :
    TimersShaped u := by
  refine ⟨by rw [hvct, List.length_set, hcfg, h.length], fun t' ht' => ?_⟩
  rw [hcfg] at ht' ⊢
  rw [vctAt_of_vct_eq_set (h.length ▸ ht) hvct]
  split
  · next he => rw [hlen, he, h.alarms t ht]
  · exact h.alarms t' ht'

/-- A step keeps the timers in shape. -/
theorem TimersShaped.step {s u : State} (h : TimersShaped s) (hstep : step s = .next u) : TimersShaped u := by
  have hcfg : u.cfg = s.cfg := configurationNeverChanges s u hstep
  obtain ⟨j, hm, -⟩ := step_moves h hstep
  cases hm with
  | quiet hvct =>
    refine ⟨by rw [hvct, hcfg, h.length], fun t ht => ?_⟩
    rw [hcfg] at ht ⊢
    rw [State.vctAt, hvct]
    exact h.alarms t ht
  | command i t T hj hi ht hT hvct => exact h.of_set hcfg (T := T.armed s.now) ht hT.alarms_length hvct
  | pass t ht hvct =>
    exact h.of_set hcfg (T := ((s.vctAt t).passed s.now).armed s.now) ht (Vct.passed_alarms_length ..) hvct

/-! ### Counter cycles (R190 (c)) -/

/-- An alarm that is marked fired may fire no more often than one that is not. -/
theorem firesOncePerCycle_of_spent {ms : List CycleMark} {b : Bool} (h : firesOncePerCycle b ms = true) :
    firesOncePerCycle false ms = true := by
  cases b with
  | false => exact h
  | true =>
    cases ms with
    | nil => rfl
    | cons m ms =>
      cases m with
      | opens => exact h
      | fires => cases h

/-- Marks that begin with a cycle opened, or not: without one a spent alarm has to stay spent. -/
theorem firesOncePerCycle_opens {o b b' : Bool} {ms : List CycleMark} (hb : o = false → b = true → b' = true)
    (h : firesOncePerCycle b' ms = true) : firesOncePerCycle b ((if o then [.opens] else []) ++ ms) = true := by
  cases o with
  | true => exact firesOncePerCycle_of_spent h
  | false =>
    cases b with
    | false => exact firesOncePerCycle_of_spent h
    | true => rwa [hb rfl rfl] at h

/-- An alarm that was not spent fires and is spent. -/
theorem firesOncePerCycle_fires {b r : Bool} (hr : r = true → b = false) (ms : List CycleMark) :
    firesOncePerCycle b ((if r then [.fires] else []) ++ ms) = firesOncePerCycle (b || r) ms := by
  cases r with
  | false => simp
  | true => rw [hr rfl]; rfl

/-- The mark that a callback of its timer makes for alarm `i`. -/
def Callback.mark (i : Nat) : Callback → Option CycleMark
  | .overflow => some .opens
  | .alarm j => if j = i then some .fires else none

/-- The marks of alarm `i` of timer `t` in the callbacks of timer `t'`. -/
theorem filterMap_cycleMark_map_fire (t i t' : Nat) (ks : List Callback) :
    (ks.map (Event.fire t')).filterMap (Event.cycleMark t i)
      = if t' = t then ks.filterMap (Callback.mark i) else [] := by
  rw [List.filterMap_map]
  split
  · next he =>
    refine List.filterMap_congr fun k _ => ?_
    cases k <;> simp [Event.cycleMark, Callback.mark, he]
  · next hne =>
    refine List.filterMap_eq_nil_iff.mpr fun k _ => ?_
    cases k <;> simp [Event.cycleMark, hne]

/-- Only `Fire` records make marks. -/
theorem filterMap_cycleMark_firesOf (t i : Nat) (tr : List Event) :
    (firesOf tr).filterMap (Event.cycleMark t i) = tr.filterMap (Event.cycleMark t i) := by
  rw [firesOf, List.filterMap_filter]
  refine List.filterMap_congr fun e _ => ?_
  cases e <;> rfl

/-- Alarm `i` of the list, or the reset alarm, which no pass reaches. -/
def alarmAt (alarms : List Alarm) (i : Nat) : Alarm := alarms[i]?.getD Alarm.reset

theorem alarmAt_map {f : Alarm → Alarm} (hf : f Alarm.reset = Alarm.reset) (alarms : List Alarm) (i : Nat) :
    alarmAt (alarms.map f) i = f (alarmAt alarms i) := by
  rw [alarmAt, alarmAt, List.getElem?_map]
  cases alarms[i]? with
  | none => exact hf.symm
  | some a => rfl

theorem spent_eq (alarms : List Alarm) (i : Nat) :
    decide (∃ a ∈ alarms[i]?, a.fired = true) = (alarmAt alarms i).fired := by
  rw [alarmAt]
  cases alarms[i]? <;> simp [Alarm.reset]

/-- An alarm pass fires alarm `i` once if the count has reached it, and else not (R179). -/
theorem firedAlarms_marks (alarms : List Alarm) (c i : Nat) :
    (firedAlarms alarms c).filterMap (Callback.mark i) = if (alarmAt alarms i).reached c then [.fires] else [] := by
  have key : ∀ n, (((List.range n).filter fun j => (alarmAt alarms j).reached c).map Callback.alarm).filterMap
      (Callback.mark i) = if i < n ∧ (alarmAt alarms i).reached c then [.fires] else [] := by
    intro n
    induction n with
    | zero => simp
    | succ n ih =>
      rw [List.range_succ, List.filter_append, List.map_append, List.filterMap_append, ih]
      by_cases hin : i = n
      · subst hin
        by_cases hr : (alarmAt alarms i).reached c = true <;> simp [hr, Callback.mark]
      · have hlt : i < n + 1 ↔ i < n := by omega
        by_cases hr : (alarmAt alarms n).reached c = true <;> simp [hr, hlt, Callback.mark, Ne.symm hin]
  refine (key alarms.length).trans (if_congr (and_iff_right_of_imp fun hr => ?_) rfl rfl)
  by_contra hge
  rw [alarmAt, List.getElem?_eq_none (Nat.le_of_not_lt hge)] at hr
  cases hr

/-- A pass fires alarm `i` only if it is not spent, again after an overflow at most once, and marks it fired (R187). -/
theorem firesOncePerCycle_pass (T : Vct) (now i : Nat) (ms : List CycleMark) :
    firesOncePerCycle (alarmAt T.alarms i).fired ((T.callbacks now).filterMap (Callback.mark i) ++ ms)
      = firesOncePerCycle (alarmAt (T.passed now).alarms i).fired ms := by
  have hreached : ∀ (a : Alarm) (c : Nat), a.reached c = true → a.fired = false := fun a c hr =>
    (Alarm.reached_iff.mp hr).1
  have hpassed : ∀ (alarms : List Alarm) (c : Nat), (alarmAt (alarms.map (·.afterPass c)) i).fired
      = ((alarmAt alarms i).fired || (alarmAt alarms i).reached c) := fun alarms c => by
    rw [alarmAt_map rfl, Alarm.afterPass_eq]
  have hcleared : (alarmAt T.clearFired.alarms i).fired = false := by
    rw [Vct.clearFired, alarmAt_map rfl]
  unfold Vct.callbacks Vct.passed
  split
  · rfl
  · rw [passCallbacks, Vct.afterPass, List.filterMap_append, List.append_assoc, firedAlarms_marks,
      firesOncePerCycle_fires (hreached _ _)]
    split
    · rw [hpassed, hcleared]
      show firesOncePerCycle false ((firedAlarms T.clearFired.alarms 0).filterMap (Callback.mark i) ++ ms) = _
      rw [firedAlarms_marks]
      exact firesOncePerCycle_fires (fun _ => rfl) ms
    · rw [hpassed]
      rfl

/-- A command, no pass, lets a spent alarm stay spent, unless it opens a cycle of it (R180 to R186). -/
theorem Vct.Changed.keepsSpent {T T' : Vct} {t now : Nat} {j : Instr} (h : T.Changed t now j T') (hj : j ≠ .vctTick t)
    (i : Nat) (hspent : (alarmAt T.alarms i).fired = true) :
    (alarmAt T'.alarms i).fired = true ∨ j = .vctReset t ∨ ∃ n, j = .vctSetalarm t i n ∧ T.counterAt now < n := by
  cases h with
  | start | stop | setfreq => exact .inl hspent
  | reset => exact .inr (.inl rfl)
  | setovf m => exact .inl (by rwa [Vct.clampTo_alarms])
  | tick => exact absurd rfl hj
  | setalarm a n =>
    by_cases hai : a = i
    · subst hai
      by_cases hlt : T.counterAt now < n
      · exact .inr (.inr ⟨n, rfl, hlt⟩)
      · refine .inl ?_
        rw [Vct.count_eq_counterAt, decide_eq_true (Nat.le_of_not_lt hlt)]
        by_cases hlen : a < T.alarms.length
        · simp [alarmAt, hlen]
        · simpa [alarmAt, hlen] using hspent
    · exact .inl (by rwa [alarmAt, List.getElem?_set_ne hai])

section
variable {s : State} {cmd : Word} {data : DoubleWord} (hin : s.inputs.head? = some (.command cmd data))
include hin

theorem opensCycle_of_reset {t : Nat} (i : Nat) (hdec : decode cmd data = .ok (.vctReset t)) :
    opensCycle t i s = true := by simp [opensCycle, hin, hdec]

theorem opensCycle_of_setalarm {t i n : Nat} (hdec : decode cmd data = .ok (.vctSetalarm t i n))
    (hn : (s.vctAt t).counterAt s.now < n) : opensCycle t i s = true := by simp [opensCycle, hin, hdec, hn]

end

/-- The marks of a step, before marks that suit the state after it. -/
theorem firesOncePerCycle_step {s u : State} (h : TimersShaped s) (hstep : step s = .next u) (t i : Nat)
    {ms : List CycleMark} (hms : firesOncePerCycle (alarmAt (u.vctAt t).alarms i).fired ms = true) :
    firesOncePerCycle (alarmAt (s.vctAt t).alarms i).fired ((if opensCycle t i s then [.opens] else [])
      ++ (newEvents s u).filterMap (Event.cycleMark t i) ++ ms) = true := by
  obtain ⟨hext, -⟩ := eventsAreOnlyAppended s u hstep
  have hmarks : ∀ {t' : Nat} {ks : List Callback}, Fired t' ks s u → (newEvents s u).filterMap (Event.cycleMark t i)
      = if t' = t then ks.filterMap (Callback.mark i) else [] := fun hf => by
    rw [← filterMap_cycleMark_firesOf, hf.newEvents hext, filterMap_cycleMark_map_fire]
  have hsilent : Silent s u → (newEvents s u).filterMap (Event.cycleMark t i) = [] := fun hf =>
    (hmarks (hf.fired t)).trans (if_pos rfl)
  obtain ⟨j, hm, hj⟩ := step_moves h hstep
  rw [List.append_assoc]
  cases hm with
  | quiet hvct hf =>
    rw [hsilent hf]
    rw [State.vctAt, hvct] at hms
    exact firesOncePerCycle_opens (fun _ hb => hb) hms
  | command c t' T hjc hc ht hT hvct hf =>
    rw [hsilent hf]
    refine firesOncePerCycle_opens (fun ho hspent => ?_) hms
    rw [vctAt_of_vct_eq_set (h.length ▸ ht) hvct]
    split
    · next he =>
      subst he
      obtain ⟨cmd, data, hin, hdec⟩ := hj c hjc
      obtain hkept | rfl | ⟨n, rfl, hn⟩ := hT.keepsSpent hc i hspent
      · exact hkept
      · exact absurd (opensCycle_of_reset hin i hdec) (by simp [ho])
      · exact absurd (opensCycle_of_setalarm hin hdec hn) (by simp [ho])
    · exact hspent
  | pass t' ht hvct hf =>
    refine firesOncePerCycle_opens (fun _ hb => hb) ?_
    rw [hmarks hf]
    rw [vctAt_of_vct_eq_set (h.length ▸ ht) hvct] at hms
    by_cases he : t' = t
    · subst he
      rw [if_pos rfl] at hms ⊢
      exact (firesOncePerCycle_pass ..).trans hms
    · rw [if_neg (Ne.symm he)] at hms
      rw [if_neg he]
      exact hms

/-- The marks of any run, by induction on its steps. -/
theorem firesOncePerCycle_cycleMarks {s : State} (h : TimersShaped s) (t i n : Nat) :
    firesOncePerCycle (alarmAt (s.vctAt t).alarms i).fired (cycleMarks t i n s) = true := by
  induction n generalizing s with
  | zero => rfl
  | succ n ih =>
    unfold cycleMarks
    split
    · next u hstep => exact firesOncePerCycle_step h hstep t i (ih (h.step hstep))
    · rfl

/-- Settles O58: `firesOncePerCycle_step` puts the marks of each step before those of the rest of the run. -/
theorem alarmFiresOncePerCycle : Obligations.AlarmFiresOncePerCycle := by
  intro s t i n hs _ _
  rw [spent_eq]
  exact firesOncePerCycle_cycleMarks hs.timersShaped t i n

/-! ### Alarms above the modulus (R178, R186, R263, R274, log 26) -/

/-- The callbacks of a pass are of alarms with a threshold at or below the modulus. -/
theorem threshold_le_of_mem_expectedCallbacks {T : Vct} {c i : Nat} (h : .alarm i ∈ expectedCallbacks T c) :
    ∃ a ∈ T.alarms[i]?, ∃ x ∈ a.threshold, ∀ m ∈ T.overflowModulus, x ≤ m := by
  rw [expectedCallbacks, List.mem_append] at h
  obtain h | h := h
  · obtain ⟨j, hj, he⟩ := List.mem_map.mp h
    cases he
    obtain ⟨a, ha, -, x, hx, -, hle⟩ := of_decide_eq_true (List.mem_filter.mp hj).2
    exact ⟨a, ha, x, hx, hle⟩
  · split at h
    · obtain h | h := List.mem_cons.mp h
      · cases h
      · obtain ⟨j, hj, he⟩ := List.mem_map.mp h
        cases he
        obtain ⟨a, ha, hx⟩ := of_decide_eq_true (List.mem_filter.mp hj).2
        exact ⟨a, ha, 0, hx, fun m _ => Nat.zero_le m⟩
    · cases h

/-- An alarm that a step fires has a threshold at or below the modulus of its timer (R274). -/
theorem threshold_le_of_fire {s u : State} (h : Inv s) (hstep : step s = .next u) {t i : Nat}
    (hfire : .fire t (.alarm i) ∈ newEvents s u) :
    ∃ a ∈ (s.vctAt t).alarms[i]?, ∃ x ∈ a.threshold, ∃ m ∈ (s.vctAt t).overflowModulus, x ≤ m := by
  obtain ⟨hext, -⟩ := eventsAreOnlyAppended s u hstep
  have hmem : .fire t (.alarm i) ∈ firesOf (newEvents s u) := List.mem_filter.mpr ⟨hfire, rfl⟩
  have of_fired : ∀ {n : Nat} {ks : List Callback}, Fired n ks s u → n = t ∧ .alarm i ∈ ks := fun hf => by
    rw [hf.newEvents hext] at hmem
    obtain ⟨k, hk, he⟩ := List.mem_map.mp hmem
    cases he
    exact ⟨rfl, hk⟩
  have not_silent : ¬ Silent s u := fun hf => List.not_mem_nil (of_fired (hf.fired t)).2
  obtain ⟨j, hm, -⟩ := step_moves h.shape.timersShaped hstep
  cases hm with
  | quiet _ hf => exact absurd hf not_silent
  | command _ _ _ _ _ _ _ _ hf => exact absurd hf not_silent
  | pass n hn _ hf =>
    obtain ⟨rfl, hk⟩ := of_fired hf
    by_cases hc : (s.vctAt n).Counting
    · rw [Vct.callbacks_of_counting hc] at hk
      obtain ⟨a, ha, x, hx, hle⟩ := threshold_le_of_mem_expectedCallbacks hk
      obtain ⟨-, hw⟩ := (h.timersOk.ok n hn).ready
      obtain ⟨m, hm⟩ := Option.ne_none_iff_exists'.mp (hw hc.1).modulus
      exact ⟨a, ha, x, hx, m, hm, hle m hm⟩
    · rw [Vct.callbacks, if_pos (Vct.rate_eq_none_iff.mpr hc)] at hk
      cases hk

/-! ### No count above the modulus up to 10^9 Hz (R187, R275) -/

/-- A pass leaves a counter at or below the modulus: it is 0 after an overflow. -/
theorem Vct.passed_onTime (T : Vct) (now : Nat) : (T.passed now).OnTime now := by
  intro hc _ m hm
  by_cases hct : T.Counting
  · rw [Vct.passed_of_counting hct] at hm ⊢
    rw [Vct.afterPass_overflowModulus] at hm
    rw [Vct.afterPass_counterAt]
    split
    · exact Nat.zero_le m
    · next ho => exact Nat.le_of_not_le fun hle => ho ⟨m, hm, hle⟩
  · rw [Vct.passed_of_not_counting hct] at hc
    exact absurd hc hct

/-- A command on a timer that is not due leaves its counter at or below its modulus. -/
theorem Vct.Changed.onTime {T T' : Vct} {t now : Nat} {i : Instr} (h : T.Changed t now i T') (hok : T.Ok now)
    (hd : T.deadline ≠ some now) : T'.OnTime now := by
  have hle : ∀ m ∈ T.overflowModulus, T.counterAt now ≤ m := fun m hm => by
    have hcount := hok.count_le hd
    rwa [hm, Vct.count_eq_counterAt] at hcount
  obtain ⟨-, hs⟩ := Vct.ok_iff.mp hok
  cases h with
  | start =>
    intro _ _ m hm
    have hbase := hs.counter
    rw [show T.overflowModulus = some m from hm] at hbase
    exact (Vct.counterAt_of_rebased rfl).trans_le hbase
  | stop => exact fun hc => by cases hc.1
  | reset => exact fun _ _ m _ => (Vct.counterAt_of_rebased rfl).trans_le (Nat.zero_le m)
  | setfreq hz =>
    intro _ _ m hm
    refine (Vct.counterAt_of_rebased rfl).trans_le ?_
    show T.count now ≤ m
    rw [Vct.count_eq_counterAt]
    exact hle m hm
  | setovf n =>
    intro _ _ m hm
    rw [Vct.clampTo_eq] at hm
    cases hm
    rw [Vct.clampTo_counterAt]
    exact Nat.min_le_right ..
  | setalarm => exact fun _ _ => hle
  | tick => exact T.passed_onTime now

/-- In a nanosecond a counter of at most `10^9` Hz grows by at most 1 (R275). -/
theorem Vct.counterAt_succ_le {T : Vct} (hf : ∀ f ∈ T.frequencyHz, f ≤ 1000000000) {u : Nat}
    (hu : T.baseTimestamp ≤ u) : T.counterAt (u + 1) ≤ T.counterAt u + 1 := by
  have hrate : T.frequencyHz.getD 0 ≤ 1000000000 := by
    cases h : T.frequencyHz with
    | none => exact Nat.zero_le _
    | some f => exact hf f h
  unfold Vct.counterAt
  split
  · rw [show u + 1 - T.baseTimestamp = u - T.baseTimestamp + 1 by omega, Nat.add_mul, Nat.one_mul]
    generalize (u - T.baseTimestamp) * T.frequencyHz.getD 0 = x
    omega
  · omega

/-- A clock step stops at the first instant at which the counter has reached the modulus (R216), so it does not pass it.
-/
theorem Vct.Ok.onTime_later {T : Vct} {now d : Nat} (h : T.Ok now) (hd : 0 < d)
    (hdl : ∀ x, T.deadline = some x → now + d ≤ x) : T.OnTime (now + d) := by
  intro hc hf m hm
  obtain ⟨harm, hs⟩ := Vct.ok_iff.mp h
  obtain ⟨f, hr⟩ := Option.ne_none_iff_exists'.mp (Vct.rate_ne_none_iff.mpr hc)
  obtain ⟨x, hx, -⟩ := Vct.armAt_spec hr (hs.written hc.1).modulus hs.rebased
  have hx' : T.deadline = some x := harm.trans hx
  obtain ⟨-, -, hfirst⟩ := h.deadline_spec hx'
  have hstop := hdl x hx'
  have hbefore : T.counterAt (now + (d - 1)) < m := Nat.lt_of_not_le fun hle =>
    hfirst (now + (d - 1)) (by omega) (by omega) (.inl ⟨m, hm, hle⟩)
  have hgrow := Vct.counterAt_succ_le hf (u := now + (d - 1)) (Nat.le_trans hs.rebased (Nat.le_add_right ..))
  rw [show now + (d - 1) + 1 = now + d by omega] at hgrow
  omega

/-- The timers of a machine are those its configuration numbers. -/
theorem forall_mem_vct_iff {s : State} (hlen : s.vct.length = s.cfg.nVCT) {P : Vct → Prop} :
    (∀ T ∈ s.vct, P T) ↔ ∀ t < s.cfg.nVCT, P (s.vctAt t) := by
  rw [List.forall_mem_iff_forall_getElem, hlen.symm]
  refine forall₂_congr fun t ht => ?_
  rw [State.vctAt, List.getElem?_eq_getElem ht, Option.getD_some]

theorem exec_now {i : Instr} {s u : State} (h : exec i s = .next u) : u.now = s.now := by
  obtain ⟨r, rfl⟩ | hk := exec_cases h
  · rfl
  · exact hk.now

section
variable {s : State} (h : Inv s) (hot : ∀ t < s.cfg.nVCT, (s.vctAt t).OnTime s.now)
include h hot

/-- A command keeps the timers on time when none is due. -/
theorem exec_onTime {u : State} {i : Instr} (hdue : ∀ T ∈ s.vct, T.deadline ≠ some s.now)
    (hx : exec i s = .next u) {t : Nat} (ht : t < s.cfg.nVCT) : (u.vctAt t).OnTime u.now := by
  have heff := exec_effect h i
  rw [hx] at heff
  rw [exec_now hx]
  obtain hsame | ⟨T, hT, heq⟩ := heff.vctAt h ht
  · exact hsame ▸ hot t ht
  · rw [heq]
    exact hT.onTime (h.timersOk.ok t ht) (hdue _ (vctAt_mem_of_inv h ht))

/-- A scheduling pass keeps the timers on time. -/
theorem tickPass_onTime {n t : Nat} (hn : n < s.cfg.nVCT) (ht : t < s.cfg.nVCT) :
    ((tickPass n s).vctAt t).OnTime (tickPass n s).now := by
  rw [vctAt_of_vct_eq_set (h.vct_length hn) (tickPass_vct h.shape.timersShaped hn), (tickPass_keepsGlobals n s).now]
  split
  · exact (s.vctAt n).passed_onTime s.now
  · exact hot t ht

/-- Every step keeps the timers on time. -/
theorem step_onTime {u : State} (hstep : step s = .next u) {t : Nat} (ht : t < s.cfg.nVCT) :
    (u.vctAt t).OnTime u.now := by
  obtain ⟨-, -, m, rest, -, ⟨cmd, data, -, hdue, ⟨i, -, hx⟩ | ⟨e, -, rfl⟩⟩ | ⟨d, -, hd, rfl⟩ | ⟨n, -, hn, rfl⟩⟩ :=
    step_cases hstep
  · exact exec_onTime (h.setInputs rest) hot (anyDue_eq_false_iff.mp hdue) hx ht
  · exact hot t ht
  · obtain ⟨hpos, hadmits⟩ := advanceEnabled_iff.mp hd
    exact (h.timersOk.ok t ht).onTime_later hpos (hadmits _ (vctAt_mem_of_inv h ht))
  · exact tickPass_onTime (h.setInputs rest) hot (h.timersOk.length ▸ (isDue_iff.mp hn).1) ht

end

/-- A timer after reset does not run. -/
theorem resetOf_onTime (cfg : Config) : ∀ T ∈ (State.resetOf cfg).vct, T.OnTime (State.resetOf cfg).now := by
  intro T hT hc
  obtain ⟨tc, -, rfl⟩ := List.mem_map.mp hT
  cases hc.1

/-- Settles O59: `threshold_le_of_fire` for the alarms, `resetOf_onTime` and `step_onTime` for the count. -/
theorem alarmAboveModulusNeverFires : Obligations.AlarmAboveModulusNeverFires := by
  refine ⟨fun s u h hstep t i => threshold_le_of_fire h hstep, resetOf_onTime, fun s u h hot hstep => ?_⟩
  have hcfg : u.cfg = s.cfg := configurationNeverChanges s u hstep
  rw [forall_mem_vct_iff h.timersOk.length] at hot
  rw [forall_mem_vct_iff (invariantKeptByStep s u h hstep).timersOk.length, hcfg]
  exact fun t ht => step_onTime h hot hstep ht

end Sys2Proof.Machine

/-! SUPPORT. Wiring and time (`spec/45_wiring_and_time.md`): which move a step makes (O7 to O11), what a callback does
(O49), and that two passes of one instant commute, the trace apart (O56). -/

namespace Sys2Proof.Machine

/-! ### The moves of a step (R215 to R217, R219) -/

/-- A machine that has not stopped makes the move at the head of its inputs (R219). -/
theorem step_eq_inputStep {s : State} {m : Input} {rest : List Input} (hf : s.fault = none)
    (hc : configOk s.cfg = true) (hi : s.inputs = m :: rest) : step s = inputStep m (s.setInputs rest) := by
  simp [step, hf, hc, hi]

theorem runCommand_of_decode {cmd : Word} {data : DoubleWord} {i : Instr} (h : decode cmd data = .ok i) (s : State) :
    runCommand cmd data s = exec i s := by
  simp [runCommand, h]

/-- While a pass is due a command is refused (R217). -/
theorem commandStep_of_due {s : State} (h : anyDue s = true) (cmd : Word) (data : DoubleWord) :
    commandStep cmd data s = .refused .commandWhileDue := if_pos h

/-- While no pass is due a command runs (R217). -/
theorem commandStep_of_quiet {s : State} (h : anyDue s = false) (cmd : Word) (data : DoubleWord) :
    commandStep cmd data s = runCommand cmd data s := if_neg (by simp [h])

theorem advanceStep_of_enabled {d : Nat} {s : State} (h : advanceEnabled d s = true) :
    advanceStep d s = .next (s.setNow (s.now + d)) := if_pos h

theorem advanceStep_of_not_enabled {d : Nat} {s : State} (h : ¬ advanceEnabled d s = true) :
    advanceStep d s = .refused .advanceNotEnabled := if_neg h

theorem dueStep_of_due {t : Nat} {s : State} (h : isDue t s = true) : dueStep t s = .next (tickPass t s) := if_pos h

theorem dueStep_of_not_due {t : Nat} {s : State} (h : ¬ isDue t s = true) :
    dueStep t s = .refused .passNotDue := if_neg h

theorem vctAt_mem {s : State} {t : Nat} (ht : t < s.vct.length) : s.vctAt t ∈ s.vct := by
  simp [State.vctAt, ht]

/-- A due timer makes the machine wait for its pass (R217). -/
theorem anyDue_of_isDue {t : Nat} {s : State} (h : isDue t s = true) : anyDue s = true := by
  obtain ⟨ht, hd⟩ := isDue_iff.mp h
  by_contra hn
  exact anyDue_eq_false_iff.mp (Bool.not_eq_true _ ▸ hn) _ (vctAt_mem ht) hd

/-- A clock step would pass the deadline of a due timer (R216, R217). -/
theorem not_advanceEnabled_of_isDue {t : Nat} {s : State} (h : isDue t s = true) (d : Nat) :
    ¬ advanceEnabled d s = true := by
  obtain ⟨ht, hd⟩ := isDue_iff.mp h
  intro ha
  obtain ⟨hpos, hadmits⟩ := advanceEnabled_iff.mp ha
  have hle : s.now + d ≤ s.now := hadmits _ (vctAt_mem ht) _ hd
  omega

/-- A pass answers no response word (R217). -/
theorem tickPass_resp {s : State} (h : TimersShaped s) {t : Nat} (ht : t < s.cfg.nVCT) :
    (tickPass t s).resp = s.resp := by
  rw [tickPass_eq_callbacks h ht, setVct_resp, fireAll_resp]

/-- A response word put back to what it was. -/
theorem restore_resp {s u : State} (v : DoubleWord) (h : u.resp = s.resp) :
    u = { respond v u with resp := s.resp } := by
  rw [← h]; rfl

/-- Settles O7: the step makes the command's move, and a decoded instruction is well-formed (`decode_fitsWord`). -/
theorem stepRunsDecodedCommand : Obligations.StepRunsDecodedCommand := by
  intro s cmd data rest i hf hc hquiet hi hdec
  obtain ⟨hwf, -⟩ := decode_fitsWord hdec
  refine ⟨hwf, ?_⟩
  calc step s = commandStep cmd data (s.setInputs rest) := step_eq_inputStep hf hc hi
    _ = runCommand cmd data (s.setInputs rest) :=
      commandStep_of_quiet (s := s.setInputs rest) (anyDue_eq_false_iff.mpr hquiet) cmd data
    _ = exec i (s.setInputs rest) := runCommand_of_decode hdec _

/-- Settles O8: `step_of_fault`. -/
theorem stoppedMachineTakesNoStep : Obligations.StoppedMachineTakesNoStep := fun _ _ h => step_of_fault h

/-- Settles O9: the condition is `advanceEnabled_iff`, on either side of it the clock step's two outcomes. -/
theorem clockStepMovesOnlyTime : Obligations.ClockStepMovesOnlyTime := by
  intro s d rest hf hc hi
  have hstep : step s = advanceStep d (s.setInputs rest) := step_eq_inputStep hf hc hi
  rw [← advanceEnabled_iff, hstep]
  exact ⟨advanceStep_of_enabled (s := s.setInputs rest), advanceStep_of_not_enabled (s := s.setInputs rest)⟩

/-- Settles O10: a due timer's pass is `VCT.TICK` without its answer; with the timer due neither a command nor a clock
step is admitted (`anyDue_of_isDue`, `not_advanceEnabled_of_isDue`). -/
theorem duePassRunsFirst : Obligations.DuePassRunsFirst := by
  intro s t rest hf hc hs
  have hstep : ∀ {m}, s.inputs = m :: rest → step s = inputStep m (s.setInputs rest) := step_eq_inputStep hf hc
  have htimers : TimersShaped (s.setInputs rest) := State.Shape.timersShaped (s := s.setInputs rest) hs
  rw [← hs.timersShaped.length, ← isDue_iff]
  have hrest : isDue t s = isDue t (s.setInputs rest) := rfl
  rw [hrest]
  refine ⟨fun hdue => ⟨fun hi => ?_, fun cmd data hi => ?_, fun d hi => ?_⟩, fun hdue hi => ?_⟩
  · have ht : t < s.cfg.nVCT := htimers.length ▸ (isDue_iff.mp hdue).1
    refine ⟨_, exec_vctTick (s := s.setInputs rest) ht, ?_⟩
    rw [hstep hi, inputStep, dueStep_of_due hdue]
    exact congrArg _ (restore_resp (s := s.setInputs rest) 0#64 (tickPass_resp htimers ht))
  · exact (hstep hi).trans (commandStep_of_due (anyDue_of_isDue hdue) cmd data)
  · exact (hstep hi).trans (advanceStep_of_not_enabled (not_advanceEnabled_of_isDue hdue d))
  · exact (hstep hi).trans (dueStep_of_not_due hdue)

/-- Settles O11: of the kinds of step (`step_cases`) a command keeps `NOW` by `exec_now`, a pass by
`tickPass_keepsGlobals`, and a clock step adds its length. -/
theorem timeMovesOnlyByClockSteps : Obligations.TimeMovesOnlyByClockSteps := by
  refine ⟨fun _ => rfl, fun s u hstep => ?_⟩
  have hsame : u.now = s.now → s.now ≤ u.now ∧ (u.now = s.now ∨ ∃ d, s.inputs.head? = some (.advance d)
    ∧ u.now = s.now + d) := fun h => ⟨h.ge, .inl h⟩
  obtain ⟨-, -, m, rest, hi, ⟨cmd, data, -, -, ⟨i, -, hx⟩ | ⟨e, -, rfl⟩⟩ | ⟨d, rfl, -, rfl⟩ | ⟨t, -, -, rfl⟩⟩ :=
    step_cases hstep
  · exact hsame (exec_now (s := s.setInputs rest) hx)
  · exact hsame rfl
  · exact ⟨Nat.le_add_right .., .inr ⟨d, by rw [hi]; rfl, rfl⟩⟩
  · exact hsame (tickPass_keepsGlobals t (s.setInputs rest)).now

/-! ### Callbacks (R214) -/

/-- A command on a unit there is, and its effect without the response word. -/
theorem withUnit_done_restore {space : IndexSpace} {i : Nat} {s u : State} (v : DoubleWord)
    (hi : i < unitCount s.cfg space) (hresp : u.resp = s.resp) :
    ∃ w, withUnit space i s (done v u) = .next w ∧ u = { w with resp := s.resp } :=
  ⟨respond v u, withUnit_of_lt hi, restore_resp v hresp⟩

/-- Settles O49: a route performs the effect of its command on the state with the record, and no effect answers. -/
theorem routePerformsCommandEffect : Obligations.RoutePerformsCommandEffect := by
  intro s t k
  have hfire : ∀ {route}, routeOf s.cfg t k = route → fire t k s = performRoute route (s.emit (.fire t k)) :=
    fun h => congrArg (performRoute · _) h
  refine ⟨fun h => hfire h, fun r h hr => ?_, fun b bits h hb => ?_, fun x bits h hx => ?_⟩
  · rw [hfire h]
    exact withUnit_done_restore (space := .srl) (s := s.emit (.fire t k)) 0#64 hr (performRoute_resp (.srl r) _)
  · rw [hfire h]
    exact withUnit_done_restore (space := .srb) (s := s.emit (.fire t k)) 0#64 hb (performRoute_resp (.srb b bits) _)
  · rw [hfire h]
    exact withUnit_done_restore (space := .srbx) (s := s.emit (.fire t k)) 0#64 hx (performRoute_resp (.srbx x bits) _)

/-! ### The flags a route sets (R135, R214) -/

/-- What a route can set: the request flag of a RequestLine, or an event of a bank or of an extension. -/
inductive UnitFlag where
  | line (r : Nat)
  | event (b e : Nat)
  | ext (x e : Nat)

/-- The flag is set in the state. -/
def State.holds (s : State) : UnitFlag → Bool
  | .line r => (s.srlAt r).pending
  | .event b e => (s.srbAt b).rawStatus.getLsbD e
  | .ext x e => (s.srbxAt x).rawStatus.getLsbD e

/-- The route sets the flag itself, not by an extension's forward (R214). -/
def routeSets (cfg : Config) : Route → UnitFlag → Prop
  | .srl r, .line r' => r' = r
  | .srb b bits, .event b' e => b' = b ∧ (bits &&& (bankConfig cfg b).evMask).getLsbD e = true
  | .srbx x bits, .ext x' e => x' = x ∧ (bits &&& (extConfig cfg x).xevMask).getLsbD e = true
  | _, _ => False

/-- The aggregate of extension `x` rises between the two states (R135). -/
def ExtRises (s u : State) (x : Nat) : Prop := (s.srbxAt x).aggregate = false ∧ (u.srbxAt x).aggregate = true

/-- The flag is the parent bit of an extension whose aggregate rises (R135). -/
def Forwarded (s u : State) : UnitFlag → Prop
  | .event b e => ∃ x, ExtRises s u x ∧ (extConfig s.cfg x).parent = b
      ∧ (extConfig s.cfg x).parentEventMask.getLsbD e = true
  | _ => False

/-- What no route writes: the configuration, the RequestLines' enables and priorities, the masks. -/
structure SameSettings (s u : State) : Prop where
  cfg : u.cfg = s.cfg
  enabled : ∀ r, (u.srlAt r).enabled = (s.srlAt r).enabled
  priority : ∀ r, (u.srlAt r).priority = (s.srlAt r).priority
  mask : ∀ b, (u.srbAt b).mask = (s.srbAt b).mask
  extMask : ∀ x, (u.srbxAt x).mask = (s.srbxAt x).mask

theorem SameSettings.refl (s : State) : SameSettings s s :=
  ⟨rfl, fun _ => rfl, fun _ => rfl, fun _ => rfl, fun _ => rfl⟩

theorem SameSettings.symm {s u : State} (h : SameSettings s u) : SameSettings u s :=
  ⟨h.cfg.symm, fun r => (h.enabled r).symm, fun r => (h.priority r).symm, fun b => (h.mask b).symm,
    fun x => (h.extMask x).symm⟩

theorem SameSettings.trans {s t u : State} (h : SameSettings s t) (h' : SameSettings t u) : SameSettings s u :=
  ⟨h'.cfg.trans h.cfg, fun r => (h'.enabled r).trans (h.enabled r), fun r => (h'.priority r).trans (h.priority r),
    fun b => (h'.mask b).trans (h.mask b), fun x => (h'.extMask x).trans (h.extMask x)⟩

/-- The second state holds every flag the first does. -/
def Grows (s u : State) : Prop := ∀ f, s.holds f = true → u.holds f = true

/-- What rises over two steps rises in one of them, if nothing falls. -/
theorem rises_iff_or {a b c : Bool} (hab : a = true → b = true) (hbc : b = true → c = true) :
    (a = false ∧ c = true) ↔ (a = false ∧ b = true) ∨ (b = false ∧ c = true) := by
  cases a <;> cases b <;> simp_all

/-- The aggregate of an extension is the OR of its unmasked events (R135). -/
theorem aggregate_iff {u : Srbx} :
    u.aggregate = true ↔ ∃ e, u.rawStatus.getLsbD e = true ∧ u.mask.getLsbD e = true := by
  rw [Srbx.aggregate, bne_iff_ne]
  constructor
  · intro hne
    by_contra hnone
    refine hne (BitVec.eq_of_getLsbD_eq fun e _ => ?_)
    simpa [Srbx.active] using fun hr hm => hnone ⟨e, hr, hm⟩
  · rintro ⟨e, hr, hm⟩ hzero
    have hbit := congrArg (·.getLsbD e) hzero
    simp [Srbx.active, hr, hm] at hbit

/-- No aggregate falls while the extensions' events only grow. -/
theorem aggregate_grows {s u : State} (hset : SameSettings s u)
    (hg : ∀ x e, s.holds (.ext x e) = true → u.holds (.ext x e) = true) (x : Nat)
    (h : (s.srbxAt x).aggregate = true) : (u.srbxAt x).aggregate = true := by
  obtain ⟨e, hr, hm⟩ := aggregate_iff.mp h
  exact aggregate_iff.mpr ⟨e, hg x e hr, hset.extMask x ▸ hm⟩

/-! ### The Arbiter after deliveries (R213) -/

/-- The Arbiter after the deliveries `ds`, its selections apart (R213). -/
structure Driven (ds : List (Sink × Nat)) (s u : State) : Prop where
  length : u.lines.length = s.lines.length
  lines : ∀ i < s.lines.length, u.lineAt i = ds.foldl (drive s.cfg.nestEnabled i) (s.lineAt i)
  filters : ∀ k, (u.classAt k).maskBelowPriority = (s.classAt k).maskBelowPriority
  locks : ∀ k, (u.classAt k).lockedLineId = (s.classAt k).lockedLineId

theorem Driven.refl (s : State) : Driven [] s s := ⟨rfl, fun _ _ => rfl, fun _ => rfl, fun _ => rfl⟩

theorem Driven.trans {ds es : List (Sink × Nat)} {s t u : State} (hc : t.cfg = s.cfg) (h : Driven ds s t)
    (h' : Driven es t u) : Driven (ds ++ es) s u := by
  refine ⟨h'.length.trans h.length, fun i hi => ?_, fun k => (h'.filters k).trans (h.filters k),
    fun k => (h'.locks k).trans (h.locks k)⟩
  rw [h'.lines i (h.length ▸ hi), h.lines i hi, hc, List.foldl_append]

theorem Delivered.driven {ds : List (Sink × Nat)} {s u : State} (h : Delivered ds s u) : Driven ds s u := by
  refine ⟨h.length, h.lines, h.filters, fun k => ?_⟩
  have hk := h.classes k
  split at hk
  · obtain ⟨⟨hlock, -⟩, -⟩ := hk
    exact hlock
  · obtain ⟨hsame, -⟩ := hk
    rw [hsame]

/-! ### The latches of the sources (R35 (a), (b)) -/

/-- A bank line is active through an event that is implemented, set, unmasked and routed to it (R125). -/
theorem lineActive_iff {bc : BankConfig} {raw mask : Word} {j : Nat} : LineActive bc (raw &&& mask) j
    ↔ ∃ e < 32, bc.evMask.getLsbD e = true ∧ raw.getLsbD e = true ∧ mask.getLsbD e = true
      ∧ bankRoute bc e = some j := by
  simp [LineActive, and_assoc]

/-- No latch falls while the flags only grow. -/
theorem latch_grows {s u : State} (hs : UnitsOk s) (hu : UnitsOk u) (hset : SameSettings s u) (hg : Grows s u)
    {c : Source} (hc : c.Exists s.cfg) (h : c.latch s = true) : c.latch u = true := by
  cases c with
  | srl r =>
    have hr : r < u.cfg.nSRL := hset.cfg ▸ hc
    rw [Source.latch, hs.srl.latches r hc, Bool.and_eq_true] at h
    obtain ⟨hp, he⟩ := h
    rw [Source.latch, hu.srl.latches r hr, hset.enabled, he, Bool.and_true]
    exact hg (.line r) hp
  | srb b j =>
    obtain ⟨hb, hj⟩ := hc
    have hb' : b < u.cfg.nSRB := hset.cfg ▸ hb
    simp only [Source.latch, hs.srb.latches b hb, hu.srb.latches b hb', hset.cfg, List.getElem?_map,
      List.getElem?_range hj, Option.map_some, Option.getD_some, decide_eq_true_eq, lineActive_iff] at h ⊢
    obtain ⟨e, he, hev, hraw, hmask, hroute⟩ := h
    exact ⟨e, he, hev, hg (.event b e) hraw, hset.mask b ▸ hmask, hroute⟩

/-- What a source delivers when its level rises (R111, R125). -/
def Source.value (s : State) : Source → Nat
  | .srl r => 1 + (s.srlAt r).priority.toNat
  | .srb _ _ => 1

theorem Source.value_ne_zero (s : State) (c : Source) : c.value s ≠ 0 := by
  cases c <;> simp [Source.value]

/-- The source is there, and its latch rises between the two states. -/
def Source.Rises (s u : State) (c : Source) : Prop := c.Exists s.cfg ∧ c.latch s = false ∧ c.latch u = true

/-- The deliveries between two states are those of the flips of the latches. -/
def FlipsDelivered (ds : List (Sink × Nat)) (s u : State) : Prop :=
  ∀ d, d ∈ ds ↔ ∃ c : Source, c.Exists s.cfg ∧ c.latch u ≠ c.latch s
    ∧ (c.sink s.cfg, if c.latch u then c.value s else 0) = d

/-- The deliveries between two states are those of the latches that rise. -/
def RisesDelivered (ds : List (Sink × Nat)) (s u : State) : Prop :=
  ∀ d, d ∈ ds ↔ ∃ c : Source, c.Rises s u ∧ (c.sink s.cfg, c.value s) = d

/-- If no latch falls, every flip is a rise. -/
theorem FlipsDelivered.rises {ds : List (Sink × Nat)} {s u : State} (h : FlipsDelivered ds s u)
    (hg : ∀ c : Source, c.Exists s.cfg → c.latch s = true → c.latch u = true) : RisesDelivered ds s u := by
  refine fun d => (h d).trans (exists_congr fun c => ?_)
  rw [Source.Rises, and_assoc, and_assoc]
  refine and_congr_right fun hc => ?_
  have hcg := hg c hc
  cases hs : c.latch s <;> cases hu : c.latch u <;> simp_all

/-- A write of a RequestLine delivers the flip of its latch (R111). -/
theorem LineWritten.flipsDelivered {r : Nat} {pending enabled : Bool} {s u : State}
    (h : LineWritten r pending enabled (s.srlAt r).priority s u) (hr : r < s.cfg.nSRL) :
    ∃ ds, Driven ds s u ∧ FlipsDelivered ds s u := by
  obtain ⟨hself, hother, -, hd, hsrb, -⟩ := h
  refine ⟨_, hd.driven, fun d => ?_⟩
  have hlatch : Source.latch u (.srl r) = (pending && enabled) := by rw [Source.latch, hself]
  have honly : ∀ c : Source, c.latch u ≠ c.latch s → c = .srl r := by
    intro c hne
    by_contra hcr
    cases c with
    | srl r' => exact hne (by rw [Source.latch, hother r' fun he => hcr (he ▸ rfl)]; rfl)
    | srb b j => exact hne (by simp [Source.latch, State.srbAt, hsrb])
  constructor
  · intro hmem
    split at hmem
    · cases hmem
    · next hne =>
      rw [List.mem_singleton.mp hmem]
      exact ⟨.srl r, hr, fun he => hne (by rw [← hlatch, he]; rfl), by rw [hlatch]; rfl⟩
  · rintro ⟨c, -, hne, rfl⟩
    cases honly c hne
    rw [if_neg fun he => hne (hlatch.trans he.symm), hlatch]
    exact List.mem_singleton.mpr rfl

/-- A write of a bank delivers the flips of its latches (R125). -/
theorem BankWritten.flipsDelivered {b : Nat} {mask raw : Word} {s u : State} (h : BankWritten b mask raw s u)
    (hsrl : u.srl = s.srl) (hb : b < s.cfg.nSRB) : ∃ ds, Driven ds s u ∧ FlipsDelivered ds s u := by
  obtain ⟨hself, hother, -, hd⟩ := h
  refine ⟨_, hd.driven, fun d => ?_⟩
  have hlatch : ∀ j < (bankConfig s.cfg b).nOut, Source.latch u (.srb b j)
      = decide (LineActive (bankConfig s.cfg b) (raw &&& mask) j) := fun j hj => by
    rw [Source.latch, hself, List.getElem?_map, List.getElem?_range hj]
    rfl
  have honly : ∀ c : Source, c.latch u ≠ c.latch s → ∃ j, c = .srb b j := by
    intro c hne
    by_contra hcb
    cases c with
    | srl r => exact hne (by simp [Source.latch, State.srlAt, hsrl])
    | srb b' j => exact hne (by rw [Source.latch, hother b' fun he => hcb ⟨j, he ▸ rfl⟩]; rfl)
  rw [List.mem_filterMap]
  constructor
  · rintro ⟨j, hj, hsome⟩
    have hj := List.mem_range.mp hj
    split at hsome
    · cases hsome
    · next hne =>
      cases hsome
      exact ⟨.srb b j, ⟨hb, hj⟩, fun he => hne ((hlatch j hj).symm.trans he),
        by simp [hlatch j hj, Source.sink, Source.value]⟩
  · rintro ⟨c, hc, hne, rfl⟩
    obtain ⟨j, rfl⟩ := honly c hne
    obtain ⟨-, hj⟩ := hc
    refine ⟨j, List.mem_range.mpr hj, ?_⟩
    refine (if_neg fun he => hne ((hlatch j hj).trans he)).trans ?_
    simp [hlatch j hj, Source.sink, Source.value]

/-- Where no latch is written nothing is delivered. -/
theorem flipsDelivered_of_same {s u : State} (hsrl : u.srl = s.srl) (hsrb : u.srb = s.srb) (hlines : u.lines = s.lines)
    (hk : ∀ k, u.classAt k = s.classAt k) : ∃ ds, Driven ds s u ∧ FlipsDelivered ds s u := by
  have hlatch : ∀ c : Source, c.latch u = c.latch s := fun c => by
    cases c <;> simp [Source.latch, State.srlAt, State.srbAt, hsrl, hsrb]
  exact ⟨[], ⟨by rw [hlines], fun i _ => by simp [State.lineAt, hlines], fun k => by rw [hk], fun k => by rw [hk]⟩,
    fun d => by simp [hlatch]⟩

/-! ### The line table after rises (R210, R213) -/

/-- A line has one driver (R211). -/
theorem source_eq_of_line {cfg : Config} (hcfg : configOk cfg = true) {c c' : Source} (hc : c.Exists cfg)
    (hc' : c'.Exists cfg) {i : Nat} (h : sinkLine (c.sink cfg) = some i) (h' : sinkLine (c'.sink cfg) = some i) :
    c = c' := by
  by_contra hne
  have hsub : List.Subperm [c, c'] (sources cfg) :=
    List.subperm_of_subset (by simpa using hne) (by simp [mem_sources hc, mem_sources hc'])
  have hle := hsub.countP_le fun a => sinkLine (a.sink cfg) == some i
  have hone : ((allSinks cfg).filterMap sinkLine).Nodup := by
    simp only [configOk, oneDriverPerLine, Bool.and_eq_true, decide_eq_true_eq] at hcfg
    exact hcfg.2
  rw [allSinks_eq hcfg, List.filterMap_map] at hone
  have hcount := List.nodup_iff_count_le_one.mp hone i
  rw [List.count_filterMap] at hcount
  have htwo : [c, c'].countP (fun a => sinkLine (a.sink cfg) == some i) = 2 := by simp [h, h']
  simp only [Function.comp_apply] at hcount
  omega

/-- A delivery leaves a line alone that its sink does not name (R213). -/
theorem drive_of_line_ne {ne : Bool} {i : Nat} (l : ArbLine) {d : Sink × Nat} (h : sinkLine d.1 ≠ some i) :
    drive ne i l d = l := by
  obtain ⟨sink, v⟩ := d
  cases sink with
  | ext => rfl
  | arb id => exact if_neg fun he : id = i => h (he ▸ rfl)

/-- A delivery of a nonzero value writes all fields of the line its sink names (R213). -/
theorem drive_of_line {ne : Bool} {i : Nat} (l l' : ArbLine) {d : Sink × Nat} (h : sinkLine d.1 = some i)
    (hv : d.2 ≠ 0) : drive ne i l d = drive ne i l' d := by
  obtain ⟨sink, v⟩ := d
  cases sink with
  | ext => cases h
  | arb id =>
    cases h
    simp only [drive, if_true, if_neg hv]

theorem foldl_drive_of_line_ne {ne : Bool} {i : Nat} (l : ArbLine) {ds : List (Sink × Nat)}
    (h : ∀ d ∈ ds, sinkLine d.1 ≠ some i) : ds.foldl (drive ne i) l = l :=
  List.foldlRecOn (motive := (· = l)) ds _ rfl fun l' hl d hd => (drive_of_line_ne l' (h d hd)).trans hl

/-- If one delivery alone drives a line, the line is as that delivery writes it. -/
theorem foldl_drive_of_line {ne : Bool} {i : Nat} (l : ArbLine) {ds : List (Sink × Nat)} {d : Sink × Nat}
    (hmem : d ∈ ds) (hd : sinkLine d.1 = some i) (hv : d.2 ≠ 0) (hone : ∀ d' ∈ ds, sinkLine d'.1 = some i → d' = d) :
    ds.foldl (drive ne i) l = drive ne i l d := by
  obtain ⟨ds₁, ds₂, rfl⟩ := List.append_of_mem hmem
  rw [List.foldl_append, List.foldl_cons, drive_of_line _ l hd hv]
  refine List.foldlRecOn (motive := (· = drive ne i l d)) ds₂ _ rfl fun l' hl d' hd' => ?_
  by_cases hnamed : sinkLine d'.1 = some i
  · rw [hone d' (by simp [hd']) hnamed]
    exact drive_of_line l' l hd hv
  · exact (drive_of_line_ne l' hnamed).trans hl

/-- The line table is a function of the latches that rose. -/
theorem Driven.lineAt_eq {ds es : List (Sink × Nat)} {s u w : State} (hcfg : configOk s.cfg = true)
    (hu : Driven ds s u) (hw : Driven es s w) (hds : RisesDelivered ds s u) (hes : RisesDelivered es s w)
    (hsame : ∀ c : Source, c.Rises s u ↔ c.Rises s w) {i : Nat} (hi : i < s.lines.length) :
    u.lineAt i = w.lineAt i := by
  have hmem : ∀ d, d ∈ ds ↔ d ∈ es := fun d =>
    (hds d).trans ((exists_congr fun c => and_congr_left fun _ => hsame c).trans (hes d).symm)
  rw [hu.lines i hi, hw.lines i hi]
  by_cases hnamed : ∃ d ∈ ds, sinkLine d.1 = some i
  · obtain ⟨d, hd, hline⟩ := hnamed
    obtain ⟨c, ⟨hc, -⟩, rfl⟩ := (hds d).mp hd
    have hone : ∀ d' ∈ ds, sinkLine d'.1 = some i → d' = (c.sink s.cfg, c.value s) := fun d' hd' hline' => by
      obtain ⟨c', ⟨hc', -⟩, rfl⟩ := (hds d').mp hd'
      rw [source_eq_of_line hcfg hc' hc hline' hline]
    rw [foldl_drive_of_line _ hd hline (c.value_ne_zero s) hone,
      foldl_drive_of_line _ ((hmem _).mp hd) hline (c.value_ne_zero s) fun d' hd' => hone d' ((hmem d').mpr hd')]
  · push Not at hnamed
    rw [foldl_drive_of_line_ne _ hnamed, foldl_drive_of_line_ne _ fun d hd => hnamed d ((hmem d).mpr hd)]

/-! ### What routes make of a state (R214) -/

/-- Between the two states the routes `rs` were performed, in some order: the flags set are theirs and those that rising
extensions forwarded, and every latch that rose was delivered. Nothing in it depends on the order. -/
structure Raised (rs : List Route) (s u : State) : Prop where
  units : UnitsOk u
  settings : SameSettings s u
  flags : ∀ f, u.holds f = true ↔ s.holds f = true ∨ (∃ route ∈ rs, routeSets s.cfg route f) ∨ Forwarded s u f
  arbiter : ∃ ds, Driven ds s u ∧ RisesDelivered ds s u

theorem Raised.grows {rs : List Route} {s u : State} (h : Raised rs s u) : Grows s u :=
  fun f hf => (h.flags f).mpr (.inl hf)

theorem Raised.latch_grows {rs : List Route} {s u : State} (hs : UnitsOk s) (h : Raised rs s u) {c : Source}
    (hc : c.Exists s.cfg) : c.latch s = true → c.latch u = true :=
  Machine.latch_grows hs h.units h.settings h.grows hc

theorem Raised.aggregate_grows {rs : List Route} {s u : State} (h : Raised rs s u) (x : Nat) :
    (s.srbxAt x).aggregate = true → (u.srbxAt x).aggregate = true :=
  Machine.aggregate_grows h.settings (fun x e => h.grows (.ext x e)) x

theorem not_extRises_self (s : State) (x : Nat) : ¬ ExtRises s s x := fun ⟨h, h'⟩ => by simp [h] at h'

theorem not_forwarded_self (s : State) (f : UnitFlag) : ¬ Forwarded s s f := by
  cases f with
  | event b e => rintro ⟨x, hx, -⟩; exact not_extRises_self s x hx
  | line | ext => exact id

theorem not_rises_self (s : State) (c : Source) : ¬ c.Rises s s := fun ⟨_, h, h'⟩ => by simp [h] at h'

theorem Raised.refl {s : State} (hs : UnitsOk s) : Raised [] s s :=
  ⟨hs, .refl s, fun f => by simp [not_forwarded_self], [], .refl s, fun d => by simp [not_rises_self]⟩

/-- What is forwarded over two steps is forwarded in one of them. -/
theorem forwarded_iff_or {s t u : State} (hc : t.cfg = s.cfg)
    (hst : ∀ x, (s.srbxAt x).aggregate = true → (t.srbxAt x).aggregate = true)
    (htu : ∀ x, (t.srbxAt x).aggregate = true → (u.srbxAt x).aggregate = true) (f : UnitFlag) :
    Forwarded s u f ↔ Forwarded s t f ∨ Forwarded t u f := by
  cases f with
  | line | ext => exact (or_self_iff).symm
  | event b e =>
    simp only [Forwarded, hc, ← exists_or, ← or_and_right]
    exact exists_congr fun x => and_congr_left fun _ => rises_iff_or (hst x) (htu x)

/-- Routes performed in sequence. -/
theorem Raised.trans {rs rs' : List Route} {s t u : State} (hs : UnitsOk s) (h : Raised rs s t) (h' : Raised rs' t u) :
    Raised (rs ++ rs') s u := by
  have hc := h.settings.cfg
  obtain ⟨ds, hd, hds⟩ := h.arbiter
  obtain ⟨es, he, hes⟩ := h'.arbiter
  refine ⟨h'.units, h.settings.trans h'.settings, fun f => ?_, ds ++ es, hd.trans hc he, fun d => ?_⟩
  · rw [h'.flags f, h.flags f, hc, forwarded_iff_or hc h.aggregate_grows h'.aggregate_grows]
    simp only [List.mem_append, or_and_right, exists_or, or_assoc, or_left_comm]
  · rw [List.mem_append, hds d, hes d, ← exists_or]
    refine exists_congr fun c => ?_
    have hvalue : c.value t = c.value s := by
      cases c with
      | srl r => rw [Source.value, h.settings.priority]; rfl
      | srb => rfl
    rw [hvalue, hc, ← or_and_right, Source.Rises, Source.Rises, Source.Rises, hc, ← and_or_left]
    refine and_congr_left fun _ => and_congr_right fun hex => ?_
    exact (rises_iff_or (h.latch_grows hs hex) (h'.latch_grows h.units (hc ▸ hex))).symm

/-! ### One route (R111, R125, R135, R214) -/

theorem Raised.of_written {route : Route} {s u : State} (hs : UnitsOk s) (hu : UnitsOk u) (hset : SameSettings s u)
    (hflags : ∀ f, u.holds f = true ↔ s.holds f = true ∨ routeSets s.cfg route f ∨ Forwarded s u f)
    (hd : ∃ ds, Driven ds s u ∧ FlipsDelivered ds s u) : Raised [route] s u := by
  obtain ⟨ds, hdriven, hflips⟩ := hd
  have hgrows : Grows s u := fun f hf => (hflags f).mpr (.inl hf)
  exact ⟨hu, hset, fun f => by simpa using hflags f, ds, hdriven,
    hflips.rises fun _ => Machine.latch_grows hs hu hset hgrows⟩

/-- Where no extension is written nothing is forwarded. -/
theorem not_forwarded_of_srbx {s u : State} (h : u.srbx = s.srbx) (f : UnitFlag) : ¬ Forwarded s u f := by
  cases f with
  | event b e =>
    rintro ⟨x, hx, -⟩
    rw [ExtRises, State.srbxAt, State.srbxAt, h] at hx
    exact not_extRises_self s x hx
  | line | ext => exact id

/-- A route to a RequestLine (R114, R214). -/
theorem raised_srlSetPending {s : State} (hs : UnitsOk s) {r : Nat} (hr : r < s.cfg.nSRL) :
    Raised [.srl r] s (srlSetPending r true s) := by
  have hw := srlSetPending_spec r true s (hs.srl.length ▸ hr)
  have hd := hw.flipsDelivered hr
  obtain ⟨hself, hother, -⟩ := hw
  have hat : ∀ r', ((srlSetPending r true s).srlAt r').enabled = (s.srlAt r').enabled
      ∧ ((srlSetPending r true s).srlAt r').priority = (s.srlAt r').priority := fun r' => by
    by_cases h : r' = r
    · rw [h, hself]; exact ⟨rfl, rfl⟩
    · rw [hother r' h]; exact ⟨rfl, rfl⟩
  refine .of_written hs (hs.afterSrlSetPending hr true)
    ⟨by simp, fun r' => (hat r').1, fun r' => (hat r').2, by simp, by simp⟩ (fun f => ?_) hd
  rw [or_iff_left (not_forwarded_of_srbx (by simp) f)]
  cases f with
  | line r' =>
    by_cases h : r' = r
    · simp [State.holds, routeSets, h, hself]
    · simp [State.holds, routeSets, h, hother r' h]
  | event | ext => simp [State.holds, routeSets]

/-- A bank's write keeps every other bank's mask, and its own if it is written back. -/
theorem BankWritten.mask_eq {b : Nat} {raw : Word} {s u : State} (h : BankWritten b (s.srbAt b).mask raw s u)
    (b' : Nat) : (u.srbAt b').mask = (s.srbAt b').mask := by
  obtain ⟨hself, hother, -⟩ := h
  by_cases hb : b' = b
  · rw [hb, hself]
  · rw [hother b' hb]

/-- The events of the banks after one bank had events added. -/
theorem BankWritten.holds_event {b : Nat} {mask added : Word} {s u : State}
    (h : BankWritten b mask ((s.srbAt b).rawStatus ||| added) s u) (b' e : Nat) :
    u.holds (.event b' e) = true ↔ s.holds (.event b' e) = true ∨ (b' = b ∧ added.getLsbD e = true) := by
  obtain ⟨hself, hother, -⟩ := h
  by_cases hb : b' = b
  · simp [State.holds, hb, hself]
  · simp [State.holds, hb, hother b' hb]

/-- A route to a bank (R127, R214). -/
theorem raised_srbSetRawBits {s : State} (hs : UnitsOk s) {b : Nat} (hb : b < s.cfg.nSRB) (bits : Word) :
    Raised [.srb b bits] s (srbSetRawBits b bits s) := by
  have hw := srbSetRawBits_spec b bits s (hs.srb.length ▸ hb) (hs.srb.latchCount hb)
  refine .of_written hs (hs.afterSrbSetRawBits hb bits) ⟨by simp, by simp, by simp, hw.mask_eq, by simp⟩ (fun f => ?_)
    (hw.flipsDelivered (by simp) hb)
  rw [or_iff_left (not_forwarded_of_srbx (by simp) f)]
  cases f with
  | line | ext => simp [State.holds, routeSets]
  | event b' e => exact hw.holds_event b' e

section
variable {x : Nat} {v : Srbx} {s u : State} (h : ExtensionWritten x v s u)
include h

/-- Only the parent bit of the extension written can be forwarded (R135). -/
theorem ExtensionWritten.forwarded_event_iff (b e : Nat) : Forwarded s u (.event b e) ↔ ExtRises s u x
    ∧ b = (extConfig s.cfg x).parent ∧ (extConfig s.cfg x).parentEventMask.getLsbD e = true := by
  obtain ⟨-, hother, -⟩ := h
  constructor
  · rintro ⟨x', hx', rfl, he⟩
    by_cases hxx : x' = x
    · exact hxx ▸ ⟨hx', rfl, he⟩
    · rw [ExtRises, hother x' hxx] at hx'
      exact absurd hx' (not_extRises_self s x')
  · rintro ⟨hx, rfl, he⟩
    exact ⟨x, hx, rfl, he⟩

/-- An extension whose aggregate does not fall writes its parent bank exactly if it rises (R135). -/
theorem ExtensionWritten.parent_cases (hg : (s.srbxAt x).aggregate = true → v.aggregate = true) :
    (ExtRises s u x ∧ BankWritten (extConfig s.cfg x).parent (s.srbAt (extConfig s.cfg x).parent).mask
        ((s.srbAt (extConfig s.cfg x).parent).rawStatus ||| (extConfig s.cfg x).parentEventMask) s u)
      ∨ (¬ ExtRises s u x ∧ u.srb = s.srb ∧ u.lines = s.lines ∧ u.normal = s.normal ∧ u.fast = s.fast) := by
  obtain ⟨hself, -, -, hparent, -⟩ := h
  have hzero : ∀ w : Srbx, w.rawStatus &&& w.mask = 0#32 ↔ w.aggregate = false := fun w => by
    simp [Srbx.aggregate, Srbx.active]
  rw [ExtRises, hself]
  simp only [Ne, hzero, Bool.not_eq_false] at hparent
  split at hparent
  · next hrises => exact .inl ⟨hrises, hparent⟩
  · next hstays =>
    rw [if_neg fun ⟨hbefore, hafter⟩ => by simp [hg hbefore] at hafter] at hparent
    obtain ⟨hsrb, hlines, hnormal, hfast, -⟩ := hparent
    exact .inr ⟨hstays, hsrb, hlines, hnormal, hfast⟩

/-- The banks after an extension whose aggregate does not fall was written: the forwarded events are added, and the
flips delivered (R125, R135). -/
theorem ExtensionWritten.banks (hg : (s.srbxAt x).aggregate = true → v.aggregate = true)
    (hp : (extConfig s.cfg x).parent < s.cfg.nSRB) :
    (∀ b, (u.srbAt b).mask = (s.srbAt b).mask)
      ∧ (∀ b e, u.holds (.event b e) = true ↔ s.holds (.event b e) = true ∨ Forwarded s u (.event b e))
      ∧ ∃ ds, Driven ds s u ∧ FlipsDelivered ds s u := by
  have hforward := h.forwarded_event_iff
  have hcases := h.parent_cases hg
  obtain ⟨-, -, -, -, hsrl, -⟩ := h
  obtain ⟨hrises, hbank⟩ | ⟨hstays, hsrb, hlines, hnormal, hfast⟩ := hcases
  · exact ⟨hbank.mask_eq, fun b e => by rw [hforward, and_iff_right hrises]; exact hbank.holds_event b e,
      hbank.flipsDelivered hsrl hp⟩
  · have hk : ∀ k, u.classAt k = s.classAt k := fun k => by cases k <;> assumption
    exact ⟨fun b => by simp [State.srbAt, hsrb],
      fun b e => by simp [hforward, hstays, State.holds, State.srbAt, hsrb],
      flipsDelivered_of_same hsrl hsrb hlines hk⟩

end

/-- A route to an extension (R137, R214). -/
theorem raised_srbxSetRawBits {s : State} (hs : UnitsOk s) {x : Nat} (hx : x < s.cfg.nSRBX) (bits : Word) :
    Raised [.srbx x bits] s (srbxSetRawBits x bits s) := by
  obtain ⟨hparent, hbit⟩ := extConfig_of_configOk hs.config hx
  have hw : ExtensionWritten x _ s (srbxSetRawBits x bits s) := srbxChange_spec x _ s (hs.srbx.length ▸ hx)
    (hs.srb.length ▸ hparent) (hs.srb.latchCount hparent) hbit
  obtain ⟨hmask, hevent, hd⟩ := hw.banks (fun hagg => by
    obtain ⟨e, hraw, hm⟩ := aggregate_iff.mp hagg
    exact aggregate_iff.mpr ⟨e, by simp [hraw], hm⟩) hparent
  obtain ⟨hself, hother, -⟩ := hw
  have hextMask : ∀ x', ((srbxSetRawBits x bits s).srbxAt x').mask = (s.srbxAt x').mask := fun x' => by
    by_cases h : x' = x
    · rw [h, hself]
    · rw [hother x' h]
  refine .of_written hs (hs.afterSrbxSetRawBits hx bits) ⟨by simp, by simp, by simp, hmask, hextMask⟩ (fun f => ?_) hd
  cases f with
  | line r => simp [State.holds, routeSets, Forwarded]
  | event b e => simpa [routeSets] using hevent b e
  | ext x' e =>
    by_cases h : x' = x
    · simp [State.holds, routeSets, Forwarded, h, hself]
    · simp [State.holds, routeSets, Forwarded, h, hother x' h]

/-- Every route raises what it sets and nothing else (R214). -/
theorem raised_performRoute {s : State} (hs : UnitsOk s) {route : Route} (hr : routeOk s.cfg route = true) :
    Raised [route] s (performRoute route s) := by
  cases route with
  | none =>
    exact .of_written hs hs (.refl s) (fun f => by simp [performRoute, routeSets, not_forwarded_self])
      (flipsDelivered_of_same rfl rfl rfl fun _ => rfl)
  | srl r => exact raised_srlSetPending hs (of_decide_eq_true hr)
  | srb b bits => exact raised_srbSetRawBits hs (of_decide_eq_true hr) bits
  | srbx x bits => exact raised_srbxSetRawBits hs (of_decide_eq_true hr) bits

/-- The trace does not matter to what was raised. -/
theorem Raised.of_emit {rs : List Route} {s u : State} {e : Event} (h : Raised rs (s.emit e) u) : Raised rs s u := by
  obtain ⟨hu, ⟨hc, hen, hprio, hmask, hext⟩, hflags, ds, ⟨hlen, hlines, hfilters, hlocks⟩, hrises⟩ := h
  simp only [classAt_emit] at hfilters hlocks
  exact ⟨hu, ⟨hc, hen, hprio, hmask, hext⟩, hflags, ds, ⟨hlen, hlines, hfilters, hlocks⟩, hrises⟩

/-- A callback raises what its route sets (R214). -/
theorem raised_fire {s : State} (hs : UnitsOk s) (t : Nat) (k : Callback) :
    Raised [routeOf s.cfg t k] s (fire t k s) :=
  (raised_performRoute (hs.emit (.fire t k)) (routeOk_of_configOk hs.config t k)).of_emit

/-- The callbacks of a timer raise what their routes set. -/
theorem raised_fireAll {s : State} (hs : UnitsOk s) (t : Nat) (ks : List Callback) :
    Raised (ks.map (routeOf s.cfg t)) s (fireAll t ks s) := by
  induction ks generalizing s with
  | nil => exact .refl hs
  | cons k ks ih =>
    have hrest := ih (hs.afterFire t k)
    rw [fire_cfg] at hrest
    exact (raised_fire hs t k).trans hs hrest

/-! ### The order of the routes does not matter (R218) -/

/-- The two states have the same units and the same Arbiter. -/
structure SameUnits (u w : State) : Prop where
  srl : u.srl = w.srl
  srb : u.srb = w.srb
  srbx : u.srbx = w.srbx
  lines : u.lines = w.lines
  classes : ∀ k, u.classAt k = w.classAt k

/-- Lists of one length with the same entries. -/
theorem eq_of_getD_eq {α : Type} {xs ys : List α} (d : α) {n : Nat} (hx : xs.length = n) (hy : ys.length = n)
    (h : ∀ i < n, xs[i]?.getD d = ys[i]?.getD d) : xs = ys := by
  rw [← map_getD_range_eq xs d hx, ← map_getD_range_eq ys d hy]
  exact List.map_congr_left fun i hi => h i (List.mem_range.mp hi)

theorem srl_eq {u v : Srl} (hp : u.pending = v.pending) (he : u.enabled = v.enabled) (hprio : u.priority = v.priority)
    (hl : u.deliveredState = v.deliveredState) : u = v := by
  cases u; cases v; simp_all

theorem srb_eq {u v : Srb} (hm : u.mask = v.mask) (hr : u.rawStatus = v.rawStatus)
    (hl : u.deliveredPerLine = v.deliveredPerLine) : u = v := by
  cases u; cases v; simp_all

theorem srbx_eq {u v : Srbx} (hr : u.rawStatus = v.rawStatus) (hm : u.mask = v.mask) : u = v := by
  cases u; cases v; simp_all

section
variable {u w : State} (hu : UnitsOk u) (hw : UnitsOk w) (hset : SameSettings u w)
  (hflags : ∀ f, u.holds f = w.holds f)
include hu hw hset hflags

/-- The RequestLines are their flags and settings: a latch follows them (R35 (a)). -/
theorem srl_eq_of_flags : u.srl = w.srl := by
  refine eq_of_getD_eq Srl.reset hu.srl.length (hset.cfg ▸ hw.srl.length) fun r hr => ?_
  have hp : (u.srlAt r).pending = (w.srlAt r).pending := hflags (.line r)
  refine srl_eq hp (hset.enabled r).symm (hset.priority r).symm ?_
  show (u.srlAt r).deliveredState = (w.srlAt r).deliveredState
  rw [hu.srl.latches r hr, hw.srl.latches r (hset.cfg ▸ hr), hp, hset.enabled]

/-- The banks are their events and masks: a latch follows them (R35 (b)). -/
theorem srb_eq_of_flags : u.srb = w.srb := by
  refine eq_of_getD_eq (Srb.reset 0) hu.srb.length (hset.cfg ▸ hw.srb.length) fun b hb => ?_
  have hr : (u.srbAt b).rawStatus = (w.srbAt b).rawStatus :=
    BitVec.eq_of_getLsbD_eq fun e _ => hflags (.event b e)
  refine srb_eq (hset.mask b).symm hr ?_
  show (u.srbAt b).deliveredPerLine = (w.srbAt b).deliveredPerLine
  rw [hu.srb.latches b hb, hw.srb.latches b (hset.cfg ▸ hb), hr, hset.mask, hset.cfg]

/-- The extensions are their events and masks. -/
theorem srbx_eq_of_flags : u.srbx = w.srbx :=
  eq_of_getD_eq Srbx.reset hu.srbx.length (hset.cfg ▸ hw.srbx.length) fun x _ =>
    srbx_eq (BitVec.eq_of_getLsbD_eq fun e _ => hflags (.ext x e)) (hset.extMask x).symm

end

/-- A class is its filter, its lock and the line table: the winner is selected unless the class is Locked, and then
none is (R35 (c), (d)). -/
theorem classAt_eq_of_lines {u w : State} {k : IrqClass} (hu : ClassOk u k) (hw : ClassOk w k) (hc : w.cfg = u.cfg)
    (hl : w.lines = u.lines) (hm : (w.classAt k).maskBelowPriority = (u.classAt k).maskBelowPriority)
    (hlock : (w.classAt k).lockedLineId = (u.classAt k).lockedLineId) : u.classAt k = w.classAt k := by
  obtain ⟨honeu, hsetu, -⟩ := hu
  obtain ⟨honew, hsetw, -⟩ := hw
  refine arbClass_eq hlock.symm ?_ hm.symm
  by_cases hn : (u.classAt k).lockedLineId = none
  · exact wins_unique (wins_of_lines hc hl hm (hsetu hn)) (hsetw (hlock.trans hn))
  · rw [honeu.resolve_left hn, honew.resolve_left (hlock ▸ hn)]

/-- The same routes, in whatever order, lead to the same flags (R135, R214). -/
theorem Raised.holds_eq {rs rs' : List Route} {s u w : State} (h : Raised rs s u) (h' : Raised rs' s w)
    (hrs : ∀ route, route ∈ rs ↔ route ∈ rs') (f : UnitFlag) : u.holds f = w.holds f := by
  have hset : SameSettings u w := h.settings.symm.trans h'.settings
  have hext : ∀ x e, u.holds (.ext x e) = w.holds (.ext x e) := fun x e => by
    rw [Bool.eq_iff_iff, h.flags, h'.flags]
    simp only [hrs, Forwarded]
  have hagg : ∀ x, (u.srbxAt x).aggregate = (w.srbxAt x).aggregate := fun x =>
    Bool.eq_iff_iff.mpr ⟨Machine.aggregate_grows hset (fun x e => (hext x e ▸ ·)) x,
      Machine.aggregate_grows hset.symm (fun x e => (hext x e ▸ ·)) x⟩
  have hforwarded : Forwarded s u f ↔ Forwarded s w f := by
    cases f <;> simp only [Forwarded, ExtRises, hagg]
  rw [Bool.eq_iff_iff, h.flags, h'.flags, hforwarded]
  simp only [hrs]

/-- The same routes, in whatever order, lead to the same units and the same Arbiter: the flags are the same, the latches
follow the flags, the lines the latches, and the selections the lines. -/
theorem Raised.sameUnits {rs rs' : List Route} {s u w : State} (hs : UnitsOk s) (h : Raised rs s u)
    (h' : Raised rs' s w) (hrs : ∀ route, route ∈ rs ↔ route ∈ rs') : SameUnits u w := by
  have hset : SameSettings u w := h.settings.symm.trans h'.settings
  have hflags := h.holds_eq h' hrs
  have hsrl := srl_eq_of_flags h.units h'.units hset hflags
  have hsrb := srb_eq_of_flags h.units h'.units hset hflags
  obtain ⟨ds, hd, hds⟩ := h.arbiter
  obtain ⟨es, he, hes⟩ := h'.arbiter
  have hlatch : ∀ c : Source, c.latch u = c.latch w := fun c => by
    cases c <;> simp only [Source.latch, State.srlAt, State.srbAt, hsrl, hsrb]
  have hlines : u.lines = w.lines := eq_of_getD_eq ArbLine.reset hd.length he.length fun i hi =>
    hd.lineAt_eq hs.config he hds hes (fun c => by rw [Source.Rises, Source.Rises, hlatch]) hi
  exact ⟨hsrl, hsrb, srbx_eq_of_flags h.units h'.units hset hflags, hlines, fun k =>
    classAt_eq_of_lines (h.units.arb.classes k) (h'.units.arb.classes k) hset.cfg hlines.symm
      ((he.filters k).trans (hd.filters k).symm) ((he.locks k).trans (hd.locks k).symm)⟩

/-- The callbacks of two timers, in either order. -/
theorem fireAll_fireAll_sameUnits {s : State} (hs : UnitsOk s) (t t' : Nat) (ks ks' : List Callback) :
    SameUnits (fireAll t' ks' (fireAll t ks s)) (fireAll t ks (fireAll t' ks' s)) := by
  have hpair : ∀ n n' ls ls', Raised (ls.map (routeOf s.cfg n) ++ ls'.map (routeOf s.cfg n')) s
      (fireAll n' ls' (fireAll n ls s)) := fun n n' ls ls' => by
    have hnext := raised_fireAll (hs.afterFireAll n ls) n' ls'
    rw [fireAll_cfg] at hnext
    exact (raised_fireAll hs n ls).trans hs hnext
  exact (hpair t t' ks ks').sameUnits hs (hpair t' t ks' ks) fun route => by
    rw [List.mem_append, List.mem_append, or_comm]

/-- The state without its trace. -/
def State.untraced (s : State) : State := { s with trace := [] }

theorem untraced_setVct (s : State) (t : Nat) (T : Vct) : (s.setVct t T).untraced = s.untraced.setVct t T := rfl

theorem fireAll_fireAll_untraced {s : State} (hs : UnitsOk s) (t t' : Nat) (ks ks' : List Callback) :
    (fireAll t' ks' (fireAll t ks s)).untraced = (fireAll t ks (fireAll t' ks' s)).untraced := by
  obtain ⟨hsrl, hsrb, hsrbx, hlines, hclasses⟩ := fireAll_fireAll_sameUnits hs t t' ks ks'
  have hnormal := hclasses .normal
  have hfast := hclasses .fast
  simp only [State.classAt] at hnormal hfast
  simp [State.untraced, hsrl, hsrb, hsrbx, hlines, hnormal, hfast]

/-- Two passes of one instant in sequence: the callbacks of both, then both records. -/
theorem tickPass_tickPass {s : State} (h : Inv s) {t t' : Nat} (hne : t' ≠ t) (ht : t < s.cfg.nVCT)
    (ht' : t' < s.cfg.nVCT) : tickPass t' (tickPass t s)
      = ((fireAll t' ((s.vctAt t').callbacks s.now) (fireAll t ((s.vctAt t).callbacks s.now) s)).setVct t
          (((s.vctAt t).passed s.now).armed s.now)).setVct t' (((s.vctAt t').passed s.now).armed s.now) := by
  have hmid := (h.tickPass ht).shape.timersShaped
  rw [tickPass_eq_callbacks h.shape.timersShaped ht] at hmid ⊢
  rw [tickPass_eq_callbacks hmid (by simpa using ht'), fireAll_setVct]
  simp only [vctAt_setVct_ne _ _ hne, fireAll_vctAt, setVct_now, fireAll_now]

theorem setVct_comm {t t' : Nat} (hne : t ≠ t') (T T' : Vct) (s : State) :
    (s.setVct t T).setVct t' T' = (s.setVct t' T').setVct t T := by
  simp [State.setVct, List.set_comm _ _ hne]

/-- Settles O56: each order performs the same callbacks and writes the same two records (`tickPass_tickPass`), and the
callbacks commute, the trace apart (`fireAll_fireAll_untraced`). -/
theorem duePassOrderDoesNotMatter : Obligations.DuePassOrderDoesNotMatter := by
  intro s t t' h hne ht ht' _ _
  show (tickPass t' (tickPass t s)).untraced = (tickPass t (tickPass t' s)).untraced
  rw [tickPass_tickPass h hne.symm ht ht', tickPass_tickPass h hne ht' ht, setVct_comm hne]
  simp only [untraced_setVct, fireAll_fireAll_untraced h.units t t']

end Sys2Proof.Machine

/-! SUPPORT. Exceptions (`spec/60_exceptions.md`): a line once taken stays the locked line of its class until its
acknowledge (O38), as no delivery and no arbitration writes a lock, and a second `ARB.TAKE` finds the class Locked. -/

namespace Sys2Proof.Machine

/-! ### Selecting a winner writes no lock (R152, R153, R156) -/

@[simp] theorem setLevel_locked (id : Nat) (cls : IrqClass) (p n : Byte) (l : Bool) (s : State) (k : IrqClass) :
    ((setLevel id cls p n l s).classAt k).lockedLineId = (s.classAt k).lockedLineId := by simp [setLevel]

@[simp] theorem setFilter_locked (k' : IrqClass) (m : Option Byte) (s : State) (k : IrqClass) :
    ((setFilter k' m s).classAt k).lockedLineId = (s.classAt k).lockedLineId := by
  by_cases hk : k = k'
  · subst hk
    obtain ⟨hlock, -⟩ := setFilter_spec k m s
    exact hlock
  · rw [setFilter_classAt_ne m s hk]

/-! ### Nor do the operations of the units, which reach the Arbiter by deliveries (R111, R125, R135, R213) -/

@[simp] theorem deliver_locked (sink : Sink) (v : Nat) (s : State) (k : IrqClass) :
    ((deliver sink v s).classAt k).lockedLineId = (s.classAt k).lockedLineId := (deliver_spec sink v s).driven.locks k

@[simp] theorem srlUpdate_locked (r : Nat) (s : State) (k : IrqClass) :
    ((srlUpdate r s).classAt k).lockedLineId = (s.classAt k).lockedLineId := by
  simp only [srlUpdate]
  split <;> simp

@[simp] theorem srlSetPending_locked (r : Nat) (p : Bool) (s : State) (k : IrqClass) :
    ((srlSetPending r p s).classAt k).lockedLineId = (s.classAt k).lockedLineId := by simp [srlSetPending]

@[simp] theorem srbLineUpdate_locked (b : Nat) (act : Word) (s : State) (j : Nat) (k : IrqClass) :
    ((srbLineUpdate b act s j).classAt k).lockedLineId = (s.classAt k).lockedLineId := by
  simp only [srbLineUpdate]
  split <;> simp

@[simp] theorem srbUpdate_locked (b : Nat) (s : State) (k : IrqClass) :
    ((srbUpdate b s).classAt k).lockedLineId = (s.classAt k).lockedLineId :=
  List.foldlRecOn (motive := fun u => (u.classAt k).lockedLineId = (s.classAt k).lockedLineId) _ _ rfl
    fun u hu j _ => (srbLineUpdate_locked b _ u j k).trans hu

@[simp] theorem srbSetMaskBits_locked (b : Nat) (bits : Word) (s : State) (k : IrqClass) :
    ((srbSetMaskBits b bits s).classAt k).lockedLineId = (s.classAt k).lockedLineId := by simp [srbSetMaskBits]

@[simp] theorem srbSetRawBits_locked (b : Nat) (bits : Word) (s : State) (k : IrqClass) :
    ((srbSetRawBits b bits s).classAt k).lockedLineId = (s.classAt k).lockedLineId := by simp [srbSetRawBits]

@[simp] theorem srbClearRawBits_locked (b : Nat) (bits : Word) (s : State) (k : IrqClass) :
    ((srbClearRawBits b bits s).classAt k).lockedLineId = (s.classAt k).lockedLineId := by simp [srbClearRawBits]

@[simp] theorem srbxChange_locked (x : Nat) (u : Srbx) (s : State) (k : IrqClass) :
    ((srbxChange x u s).classAt k).lockedLineId = (s.classAt k).lockedLineId := by
  simp only [srbxChange]
  split
  · simp
  · split <;> simp

@[simp] theorem srbxSetRawBits_locked (x : Nat) (bits : Word) (s : State) (k : IrqClass) :
    ((srbxSetRawBits x bits s).classAt k).lockedLineId = (s.classAt k).lockedLineId := srbxChange_locked ..

/-! ### Nor does a timer, which reaches them by its routes (R187, R214) -/

@[simp] theorem performRoute_locked (route : Route) (s : State) (k : IrqClass) :
    ((performRoute route s).classAt k).lockedLineId = (s.classAt k).lockedLineId := by
  cases route with
  | none => rfl
  | srl r => exact srlSetPending_locked r true s k
  | srb b bits => exact srbSetRawBits_locked b bits s k
  | srbx x bits => exact srbxSetRawBits_locked x bits s k

@[simp] theorem fire_locked (t : Nat) (c : Callback) (s : State) (k : IrqClass) :
    ((fire t c s).classAt k).lockedLineId = (s.classAt k).lockedLineId := by simp [fire]

@[simp] theorem schedule_locked (t : Nat) (s : State) (k : IrqClass) :
    ((schedule t s).classAt k).lockedLineId = (s.classAt k).lockedLineId := by simp [schedule]

@[simp] theorem alarmStep_locked (t c : Nat) (s : State) (i : Nat) (k : IrqClass) :
    ((alarmStep t c s i).classAt k).lockedLineId = (s.classAt k).lockedLineId := by
  simp only [alarmStep]
  split <;> simp

@[simp] theorem alarmPass_locked (t c : Nat) (s : State) (k : IrqClass) :
    ((alarmPass t c s).classAt k).lockedLineId = (s.classAt k).lockedLineId :=
  List.foldlRecOn (motive := fun u => (u.classAt k).lockedLineId = (s.classAt k).lockedLineId) _ _ rfl
    fun u hu i _ => (alarmStep_locked t c u i k).trans hu

@[simp] theorem overflowPass_locked (t : Nat) (s : State) (k : IrqClass) :
    ((overflowPass t s).classAt k).lockedLineId = (s.classAt k).lockedLineId := by simp [overflowPass]

@[simp] theorem tickPass_locked (t : Nat) (s : State) (k : IrqClass) :
    ((tickPass t s).classAt k).lockedLineId = (s.classAt k).lockedLineId := by
  unfold tickPass
  split
  · simp
  · rw [schedule_locked]
    split <;> simp

/-! ### A command that finds a class Locked (R154, R155, R239) -/

/-- The class is Locked on the line (R29). -/
def LockedOn (k : IrqClass) (line : Nat) (s : State) : Prop := (s.classAt k).lockedLineId = some line

section
variable {s : State} {k : IrqClass} {line : Nat} (h : LockedOn k line s)
include h

/-- A second take finds the class Locked and changes nothing (R239); a take of the other class leaves this one alone
(R158). -/
theorem LockedOn.afterTake (k' : IrqClass) : LockedOn k line (takeLine k' s) := by
  by_cases hk : k = k'
  · subst hk
    obtain ⟨i, hpending, -⟩ | ⟨-, hsame⟩ := takeLine_spec k s
    · rw [ArbClass.state_of_locked h] at hpending
      cases hpending
    · rwa [hsame]
  · rwa [LockedOn, takeLine_classAt_ne s hk]

/-- The response word is no part of a class. -/
theorem done_lockedOn (v : DoubleWord) : EndsIn (LockedOn k line) (done v s) :=
  .next _ ((congrArg _ (respond_classAt v s k)).trans h)

/-- A faulting command discards its effects (R230). -/
theorem raise_lockedOn (r : FaultRecord) : EndsIn (LockedOn k line) (.next (raise r s)) := by
  rw [raise_eq_faulted]
  exact .next _ h

theorem withUnit_lockedOn {space : IndexSpace} {n : Nat} {body : Result} (hbody : EndsIn (LockedOn k line) body) :
    EndsIn (LockedOn k line) (withUnit space n s body) := ite_endsIn (raise_lockedOn h _) hbody

/-- A command with one unit index and no fault of its own, whose effect `u` writes no lock. -/
theorem withUnit_done_lockedOn {space : IndexSpace} {n : Nat} {v : DoubleWord} {u : State}
    (hu : (u.classAt k).lockedLineId = (s.classAt k).lockedLineId) :
    EndsIn (LockedOn k line) (withUnit space n s (done v u)) :=
  withUnit_lockedOn h (done_lockedOn (hu.trans h) v)

/-- An acknowledge of the other class leaves this one alone (R158). -/
theorem execArbAck_lockedOn {k' : IrqClass} (hk : k ≠ k') : EndsIn (LockedOn k line) (execArbAck k' s) := by
  unfold execArbAck
  split
  · exact raise_lockedOn h _
  · next i _ => exact done_lockedOn ((congrArg _ (ackLine_classAt_ne i s hk)).trans h) _

/-- A timer's record written and scheduled. -/
theorem done_schedule_lockedOn (v : DoubleWord) (t : Nat) (T : Vct) :
    EndsIn (LockedOn k line) (done v (schedule t (s.setVct t T))) :=
  done_lockedOn ((schedule_locked ..).trans ((congrArg _ (classAt_setVct ..)).trans h)) v

/-- Every command but the acknowledge of the class leaves it Locked. -/
theorem exec_lockedOn {i : Instr} (hi : i ≠ .arbAck k) : EndsIn (LockedOn k line) (exec i s) := by
  cases i with
  | clcGet | clcIsen | clcGetpre | srlGet | srbGetmask | srbGetraw | srbGetmis | srbxGetmask | srbxGetraw | srbxGetmis
  | vctGetcnt | vctNext => exact withUnit_done_lockedOn h rfl
  | clcInit | clcSet | srlSet | srlAssert | srlClear | srbSetmask | srbSetraw | srbClearraw | srbxSetmask | srbxSetraw
  | srbxClearraw | arbSetlevel | vctReset | vctSetfreq | vctTick => exact withUnit_done_lockedOn h (by simp)
  | arbTake k' => exact done_lockedOn (h.afterTake k') _
  | arbAck k' => exact execArbAck_lockedOn h fun hk => hi (hk ▸ rfl)
  | arbSetmask k' => exact done_lockedOn ((setFilter_locked k' _ s k).trans h) _
  | vctStart =>
    exact withUnit_lockedOn h (ite_endsIn (done_lockedOn h _)
      (ite_endsIn (done_schedule_lockedOn h ..) (raise_lockedOn h _)))
  | vctStop =>
    exact withUnit_lockedOn h (ite_endsIn (done_lockedOn ((congrArg _ (classAt_setVct ..)).trans h) _)
      (done_lockedOn h _))
  | vctSetovf | vctSetalarm =>
    exact withUnit_lockedOn h (ite_endsIn (raise_lockedOn h _) (done_schedule_lockedOn h ..))

end

/-- Settles O38: of the kinds of step (`step_cases`), a fault and a clock step write no class, a scheduling pass no lock
(`tickPass_locked`), and of the commands only `ARB.ACK` releases one (`exec_lockedOn`). -/
theorem lockedClassWaitsForAck : Obligations.LockedClassWaitsForAck := by
  intro s t k line hstep hlocked
  obtain ⟨-, -, m, rest, hin, ⟨cmd, data, rfl, -, ⟨i, hdec, hx⟩ | ⟨e, -, rfl⟩⟩ | ⟨d, -, -, rfl⟩ | ⟨n, -, -, rfl⟩⟩ :=
    step_cases hstep
  · by_cases hi : i = .arbAck k
    · exact .inr ⟨cmd, data, by rw [hin]; rfl, hi ▸ hdec⟩
    · have hends := exec_lockedOn (s := s.setInputs rest) hlocked hi
      rw [hx] at hends
      cases hends with
      | next _ ht => exact .inl ht
  · exact .inl hlocked
  · exact .inl hlocked
  · exact .inl ((tickPass_locked n (s.setInputs rest) k).trans hlocked)

end Sys2Proof.Machine

/-! SUPPORT. Reset (`spec/70_reset_and_hazards.md`): every unit stands at its reset record, and a machine that is offered
no input takes no step (O18). -/

namespace Sys2Proof.Machine

/-! ### The units of the reset state (R36, R261) -/

/-- Both classes are Idle after reset, and an output is 1 only in Pending (R29). -/
theorem resetOf_out (cfg : Config) (k : IrqClass) : (State.resetOf cfg).out k = false := by
  rw [State.out, resetOf_classAt]
  rfl

theorem eq_reset_of_mem_resetOf_srl {cfg : Config} {u : Srl} (h : u ∈ (State.resetOf cfg).srl) : u = Srl.reset :=
  List.eq_of_mem_replicate h

theorem exists_eq_reset_of_mem_resetOf_srb {cfg : Config} {u : Srb} (h : u ∈ (State.resetOf cfg).srb) :
    ∃ nOut, u = Srb.reset nOut := by
  obtain ⟨b, -, rfl⟩ := List.mem_map.mp h
  exact ⟨b.nOut, rfl⟩

theorem exists_eq_reset_of_mem_resetOf_vct {cfg : Config} {T : Vct} (h : T ∈ (State.resetOf cfg).vct) :
    ∃ nAlarm, T = Vct.reset nAlarm := by
  obtain ⟨t, -, rfl⟩ := List.mem_map.mp h
  exact ⟨t.nAlarm, rfl⟩

/-! ### No input, no step (R219, R261) -/

/-- A machine that has not stopped waits for the environment's next move. -/
theorem step_of_no_input {s : State} (hf : s.fault = none) (hc : configOk s.cfg = true) (hi : s.inputs = []) :
    step s = .refused .noInput := by
  simp [step, hf, hc, hi]

/-- Settles O18: the units stand at their reset records, whose latches and deadlines are clear, and no input is offered
(`step_of_no_input`). -/
theorem resetIsQuiet : Obligations.ResetIsQuiet := by
  intro cfg hcfg
  refine ⟨rfl, resetOf_out cfg, fun u hu => ?_, fun u hu l hl => ?_, fun T hT => ?_, step_of_no_input rfl hcfg rfl⟩
  · obtain rfl := eq_reset_of_mem_resetOf_srl hu
    rfl
  · obtain ⟨nOut, rfl⟩ := exists_eq_reset_of_mem_resetOf_srb hu
    exact List.eq_of_mem_replicate hl
  · obtain ⟨nAlarm, rfl⟩ := exists_eq_reset_of_mem_resetOf_vct hT
    exact ⟨rfl, rfl⟩

end Sys2Proof.Machine
